-- ==== Sys2Proof/Machine/Params.lean ====
section
/-! DEFINITION. The named constants of 00_scope.md R4, each defined once: the definitions of the machine name them and repeat
no numeral of theirs. The source's literals are unaudited (92_eei_decisions.md P2, log 33). -/

namespace Sys2Proof.Machine

/-- `MEM_SIZE`: bytes of memory, addresses 0x000..0xFFF. -/
abbrev memSize : Nat := 4096

/-- `FONT_BASE`: first address of the font region. -/
abbrev fontBase : Nat := 0x50

/-- `FONT_SIZE`: bytes of the font region. -/
abbrev fontSize : Nat := 80

/-- `GLYPH_BYTES`: bytes per glyph (90_conflicts.md C3). -/
abbrev glyphBytes : Nat := 5

/-- `PROG_BASE`: load address and reset value of PC. -/
abbrev progBase : Nat := 0x200

/-- `PROG_MAX`: the longest program image, `MEM_SIZE - PROG_BASE`. -/
abbrev progMax : Nat := memSize - progBase

/-- `NREGS`: general registers V0..VF. -/
abbrev nregs : Nat := 16

/-- `REG_BITS`: width of the V registers, DT, ST and memory bytes. -/
abbrev regBits : Nat := 8

/-- `I_BITS`: width of I. -/
abbrev iBits : Nat := 16

/-- `PC_BITS`: width of PC. -/
abbrev pcBits : Nat := 16

/-- `STACK_ENTRY_BITS`: width of a return address. -/
abbrev stackEntryBits : Nat := 16

/-- `STACK_DEPTH`: entries of the call stack. -/
abbrev stackDepth : Nat := 16

/-- `FB_W`: framebuffer columns. -/
abbrev fbW : Nat := 64

/-- `FB_H`: framebuffer rows. -/
abbrev fbH : Nat := 32

/-- `NKEYS`: key flags 0..F. -/
abbrev nkeys : Nat := 16

/-- `INSTR_BYTES`: bytes per instruction. -/
abbrev instrBytes : Nat := 2

/-- `TICK_HZ`: Tick events per second of real time; no rule of the core reads it (60_exceptions.md R181). -/
abbrev tickHz : Nat := 60

/-- How many hexadecimal digits have a glyph: `FONT_SIZE / GLYPH_BYTES`. -/
abbrev glyphCount : Nat := fontSize / glyphBytes

/-- How many values a byte has: arithmetic on bytes is modulo this (41_alu.md R111). -/
abbrev byteValues : Nat := 2 ^ regBits

/-- The last address at which both bytes of an instruction lie inside memory (40_cycle_control.md R81). -/
abbrev lastFetch : Nat := memSize - instrBytes

end Sys2Proof.Machine
end

