-- ==== Sys2Proof/Word.lean ====
section
/-! DEFINITION. The bit-vector types of the machine: bytes, 16-bit words, and the operand fields of an instruction word. The
widths R4 of 00_scope.md names are its constants (`delta%` writes the constant's value into the type, so that lemmas about
literal widths apply); the others are those of 30_encoding.md R60, R61. -/

namespace Sys2Proof

open Sys2Proof.Machine

/-- A value of `REG_BITS` bits: a general register, a memory byte, a timer, the immediate NN (10_state.md R10, R22;
30_encoding.md R61). -/
abbrev Byte := BitVec (delta% regBits)

/-- An instruction word, 16 bits (30_encoding.md R60): `INSTR_BYTES` bytes. -/
abbrev Word := BitVec 16

/-- A value of I (10_state.md R15). -/
abbrev Index := BitVec (delta% iBits)

/-- A value of PC (10_state.md R16). -/
abbrev CodeAddr := BitVec (delta% pcBits)

/-- A cell of the call stack (10_state.md R19). -/
abbrev ReturnAddr := BitVec (delta% stackEntryBits)

/-- A register number, the field X or Y (10_state.md R10: every number a word can name exists). -/
abbrev Reg := BitVec 4

/-- The 4-bit immediate N, the sprite height of DRW (30_encoding.md R61). -/
abbrev Nibble := BitVec 4

/-- The 12-bit address field NNN (30_encoding.md R61). -/
abbrev Addr := BitVec 12

/-- The flag register VF is register number 15 (10_state.md R11). -/
abbrev vF : Reg := 0xF#4

end Sys2Proof
end

