-- ==== Sys2Proof/Config.lean ====
section
/-! DEFINITION. What is fixed before reset (the configuration record of 00_scope.md R5) and the free values of the
machine (the random byte, the instructions-per-second target). -/

namespace Sys2Proof

open Sys2Proof.Machine

/-- `SHIFT_SRC`: the source register of SHR and SHL (41_alu.md R108, R110). -/
inductive ShiftSrc where
  | vy
  | vx
deriving DecidableEq, Repr

/-- `JUMP_OFFSET_REG`: the offset register of JP V0 (40_cycle_control.md R92). -/
inductive JumpOffsetReg where
  | v0
  | vx
deriving DecidableEq, Repr

/-- `DRAW_EDGE`: what DRW does past the edge of the grid (43_display.md R142). -/
inductive DrawEdge where
  | clip
  | wrap
deriving DecidableEq, Repr

/-- `INDEX_INCREMENT`: whether block store and load advance I (42_index_memory.md R127). -/
inductive IndexIncrement where
  | none
  | xPlus1
deriving DecidableEq, Repr

/-- The configuration record (00_scope.md R5), fixed before reset and changed by no instruction and no event.
DESIGN CHOICE, safe: it is carried in State, because exec takes no other argument (log 1). -/
structure Config where
  shiftSrc       : ShiftSrc
  jumpOffsetReg  : JumpOffsetReg
  drawEdge       : DrawEdge
  indexIncrement : IndexIncrement
  /-- `FONT` (20_memory.md R44); `Config.wf` says which bits of it are fixed. -/
  font           : Vector Byte fontSize
deriving DecidableEq, Repr

/-- The random byte of draw number `n`, the input `rnd` of the cycle that executes that RND
(44_keypad_timers_random.md R150). A free value: any byte, under no law.
DESIGN CHOICE, safe: one fresh value per executed RND (D15, log 3). -/
opaque Config.rnd : Nat → Byte

/-- `IPS`, the instructions-per-second target (00_scope.md R5, P1). The spec gives no value and no rule reads it.
DESIGN CHOICE, safe: a constant nothing reads (log 34). -/
opaque Config.ips : PNat

end Sys2Proof
end

