-- ==== Sys2Proof/Machine/Font.lean ====
section
/-! DEFINITION. The font data of 20_memory.md R44: glyph 0, which the source gives, and the default font. -/

namespace Sys2Proof.Machine

/-- Glyph 0, the one glyph the source gives (20_memory.md R44). -/
abbrev glyph0 : List Byte := [0xF0, 0x90, 0x90, 0x90, 0xF0]

/-- The default `FONT`, sixteen 5-byte glyphs (20_memory.md R44). Glyph 0 is the source's.
PRESUMED, unsafe: glyphs 1 to F are the spec's general knowledge (G3, D10; log 8). -/
def defaultFont : Vector Byte fontSize :=
  #v[0xF0, 0x90, 0x90, 0x90, 0xF0,
     0x20, 0x60, 0x20, 0x20, 0x70,
     0xF0, 0x10, 0xF0, 0x80, 0xF0,
     0xF0, 0x10, 0xF0, 0x10, 0xF0,
     0x90, 0x90, 0xF0, 0x10, 0x10,
     0xF0, 0x80, 0xF0, 0x10, 0xF0,
     0xF0, 0x80, 0xF0, 0x90, 0xF0,
     0xF0, 0x10, 0x20, 0x40, 0x40,
     0xF0, 0x90, 0xF0, 0x90, 0xF0,
     0xF0, 0x90, 0xF0, 0x10, 0xF0,
     0xF0, 0x90, 0xF0, 0x90, 0x90,
     0xE0, 0x90, 0xE0, 0x90, 0xE0,
     0xF0, 0x80, 0x80, 0x80, 0xF0,
     0xE0, 0x90, 0x90, 0x90, 0xE0,
     0xF0, 0x80, 0xF0, 0x80, 0xF0,
     0xF0, 0x80, 0xF0, 0x80, 0x80]

end Sys2Proof.Machine
end

