-- ==== Sys2Proof/Syntax.lean ====
section
/-! DEFINITION. The instructions, one constructor per row of spec/opcode_table.json, in the table's order
(30_encoding.md R64), and the decoder's descriptor with its explicit unknown variant. -/

namespace Sys2Proof

/-- The 34 instructions (30_encoding.md R64, R65). `x`, `y` are the register fields, `n`, `nn`, `nnn` the immediates
of 30_encoding.md R61; each operand's type is exactly as wide as its field. -/
inductive Instr where
  | cls                                      -- 00E0
  | ret                                      -- 00EE
  | jp (nnn : Addr)                          -- 1NNN
  | call (nnn : Addr)                        -- 2NNN
  | seVxNN (x : Reg) (nn : Byte)             -- 3XNN
  | sneVxNN (x : Reg) (nn : Byte)            -- 4XNN
  | seVxVy (x y : Reg)                       -- 5XY0
  | ldVxNN (x : Reg) (nn : Byte)             -- 6XNN
  | addVxNN (x : Reg) (nn : Byte)            -- 7XNN
  | ldVxVy (x y : Reg)                       -- 8XY0
  | orVxVy (x y : Reg)                       -- 8XY1
  | andVxVy (x y : Reg)                      -- 8XY2
  | xorVxVy (x y : Reg)                      -- 8XY3
  | addVxVy (x y : Reg)                      -- 8XY4
  | subVxVy (x y : Reg)                      -- 8XY5
  | shrVxVy (x y : Reg)                      -- 8XY6
  | subnVxVy (x y : Reg)                     -- 8XY7
  | shlVxVy (x y : Reg)                      -- 8XYE
  | sneVxVy (x y : Reg)                      -- 9XY0
  | ldINNN (nnn : Addr)                      -- ANNN
  | jpV0NNN (nnn : Addr)                     -- BNNN (X, read under JUMP_OFFSET_REG = VX, is the top nibble of NNN)
  | rndVxNN (x : Reg) (nn : Byte)            -- CXNN
  | drwVxVyN (x y : Reg) (n : Nibble)        -- DXYN
  | skpVx (x : Reg)                          -- EX9E
  | sknpVx (x : Reg)                         -- EXA1
  | ldVxDT (x : Reg)                         -- FX07
  | ldVxK (x : Reg)                          -- FX0A
  | ldDTVx (x : Reg)                         -- FX15
  | ldSTVx (x : Reg)                         -- FX18
  | addIVx (x : Reg)                         -- FX1E
  | ldFVx (x : Reg)                          -- FX29
  | ldBVx (x : Reg)                          -- FX33
  | ldMemVx (x : Reg)                        -- FX55, LD [I],Vx
  | ldVxMem (x : Reg)                        -- FX65, LD Vx,[I]
deriving DecidableEq, Repr

/-- What the decoder answers: an instruction, or the explicit unknown variant with the word it rejects
(30_encoding.md R64, R68). -/
inductive Decoded where
  | instr (i : Instr)
  | unknown (w : Word)
deriving DecidableEq, Repr

end Sys2Proof
end

