-- ==== Sys2Proof/WellFormed.lean ====
section
/-! DEFINITION. The checks on terms that come from outside the machine: an instruction's operand fields against the
widths of 30_encoding.md R61, and the configuration record against 20_memory.md R44. -/

namespace Sys2Proof

open Sys2Proof.Machine

/-- A field value fits its width in bits. -/
def fieldFits (f : Nat × Nat) : Bool := decide (f.1 < 2 ^ f.2)

/-- An instruction's operand fields as numbers, each with the width 30_encoding.md R61 gives that field. -/
def Instr.fields : Instr → List (Nat × Nat)
  | .cls | .ret => []
  | .jp nnn | .call nnn | .ldINNN nnn | .jpV0NNN nnn => [(nnn.toNat, 12)]
  | .seVxNN x nn | .sneVxNN x nn | .ldVxNN x nn | .addVxNN x nn | .rndVxNN x nn => [(x.toNat, 4), (nn.toNat, 8)]
  | .seVxVy x y | .sneVxVy x y | .ldVxVy x y | .orVxVy x y | .andVxVy x y | .xorVxVy x y
  | .addVxVy x y | .subVxVy x y | .shrVxVy x y | .subnVxVy x y | .shlVxVy x y => [(x.toNat, 4), (y.toNat, 4)]
  | .drwVxVyN x y n => [(x.toNat, 4), (y.toNat, 4), (n.toNat, 4)]
  | .skpVx x | .sknpVx x | .ldVxDT x | .ldVxK x | .ldDTVx x | .ldSTVx x | .addIVx x | .ldFVx x | .ldBVx x
  | .ldMemVx x | .ldVxMem x => [(x.toNat, 4)]

/-- An instruction is well formed when every operand fits its field. The operand types have the fields' widths, so
every term of Instr passes (10_state.md R10: there is no out-of-range register number). -/
def Instr.wf (i : Instr) : Bool := i.fields.all fieldFits

/-- A font byte has its pixels in bits 7..4, and bits 3..0 are zero (20_memory.md R44). -/
def isFontByte (b : Byte) : Bool := b.extractLsb' 0 4 == 0#4

/-- A configuration is well formed when the font's first five bytes are the source's glyph 0 and bits 3..0 of every font byte
are zero (20_memory.md R44). -/
def Config.wf (c : Config) : Bool := c.font.toList.take glyphBytes == glyph0 && c.font.toList.all isFontByte

end Sys2Proof
end

