-- ==== Sys2Proof/Decode.lean ====
section
/-! DEFINITION. The decoder, total on every word (30_encoding.md R60 to R69), the encoder written from the same table, and
the table itself as masks and matches (R64).
PRESUMED, unsafe: 32 of the 34 bit patterns, their full comparison and the byte order of the fetch are the spec's general
knowledge of CHIP-8 (D2, D3, D4; log 9, log 10). -/

namespace Sys2Proof

/-- `OP`, bits 15..12 (30_encoding.md R61). -/
def fieldOp (w : Word) : BitVec 4 := w.extractLsb' 12 4

/-- `X`, bits 11..8. -/
def fieldX (w : Word) : Reg := w.extractLsb' 8 4

/-- `Y`, bits 7..4. -/
def fieldY (w : Word) : Reg := w.extractLsb' 4 4

/-- `N`, bits 3..0 (90_conflicts.md C7). -/
def fieldN (w : Word) : Nibble := w.extractLsb' 0 4

/-- `NN`, bits 7..0. -/
def fieldNN (w : Word) : Byte := w.extractLsb' 0 8

/-- `NNN`, bits 11..0. -/
def fieldNNN (w : Word) : Addr := w.extractLsb' 0 12

/-- Family 0: only the whole words 00E0 and 00EE are known (30_encoding.md R66, R69). -/
def decodeFixed (w : Word) : Decoded :=
  if fieldNNN w = 0x0E0#12 then .instr .cls
  else if fieldNNN w = 0x0EE#12 then .instr .ret
  else .unknown w

/-- Families 5 and 9: the low nibble must be 0 (30_encoding.md R66). -/
def decodeIfLowZero (w : Word) (i : Instr) : Decoded :=
  if fieldN w = 0x0#4 then .instr i else .unknown w

/-- Family 8: the low nibble selects the ALU operation (30_encoding.md R64, 41_alu.md R112). -/
def decodeAlu (w : Word) : Decoded :=
  let x := fieldX w
  let y := fieldY w
  let n := fieldN w
  if n = 0x0#4 then .instr (.ldVxVy x y)
  else if n = 0x1#4 then .instr (.orVxVy x y)
  else if n = 0x2#4 then .instr (.andVxVy x y)
  else if n = 0x3#4 then .instr (.xorVxVy x y)
  else if n = 0x4#4 then .instr (.addVxVy x y)
  else if n = 0x5#4 then .instr (.subVxVy x y)
  else if n = 0x6#4 then .instr (.shrVxVy x y)
  else if n = 0x7#4 then .instr (.subnVxVy x y)
  else if n = 0xE#4 then .instr (.shlVxVy x y)
  else .unknown w

/-- Family E: the low byte selects the key skip. -/
def decodeKey (w : Word) : Decoded :=
  let x := fieldX w
  let nn := fieldNN w
  if nn = 0x9E#8 then .instr (.skpVx x)
  else if nn = 0xA1#8 then .instr (.sknpVx x)
  else .unknown w

/-- Family F: the low byte selects the operation. -/
def decodeMisc (w : Word) : Decoded :=
  let x := fieldX w
  let nn := fieldNN w
  if nn = 0x07#8 then .instr (.ldVxDT x)
  else if nn = 0x0A#8 then .instr (.ldVxK x)
  else if nn = 0x15#8 then .instr (.ldDTVx x)
  else if nn = 0x18#8 then .instr (.ldSTVx x)
  else if nn = 0x1E#8 then .instr (.addIVx x)
  else if nn = 0x29#8 then .instr (.ldFVx x)
  else if nn = 0x33#8 then .instr (.ldBVx x)
  else if nn = 0x55#8 then .instr (.ldMemVx x)
  else if nn = 0x65#8 then .instr (.ldVxMem x)
  else .unknown w

/-- The decoder (30_encoding.md R64): a pure, total function of the word; the top nibble selects the family (R61), and a
word that matches no pattern is the explicit unknown variant (R68). It reads no state and no configuration (R67). -/
def decode (w : Word) : Decoded :=
  let op := fieldOp w
  if op = 0x0#4 then decodeFixed w
  else if op = 0x1#4 then .instr (.jp (fieldNNN w))
  else if op = 0x2#4 then .instr (.call (fieldNNN w))
  else if op = 0x3#4 then .instr (.seVxNN (fieldX w) (fieldNN w))
  else if op = 0x4#4 then .instr (.sneVxNN (fieldX w) (fieldNN w))
  else if op = 0x5#4 then decodeIfLowZero w (.seVxVy (fieldX w) (fieldY w))
  else if op = 0x6#4 then .instr (.ldVxNN (fieldX w) (fieldNN w))
  else if op = 0x7#4 then .instr (.addVxNN (fieldX w) (fieldNN w))
  else if op = 0x8#4 then decodeAlu w
  else if op = 0x9#4 then decodeIfLowZero w (.sneVxVy (fieldX w) (fieldY w))
  else if op = 0xA#4 then .instr (.ldINNN (fieldNNN w))
  else if op = 0xB#4 then .instr (.jpV0NNN (fieldNNN w))
  else if op = 0xC#4 then .instr (.rndVxNN (fieldX w) (fieldNN w))
  else if op = 0xD#4 then .instr (.drwVxVyN (fieldX w) (fieldY w) (fieldN w))
  else if op = 0xE#4 then decodeKey w
  else decodeMisc w

/-- The word formed by the two bytes of an instruction, the byte at the lower address in bits 15..8
(20_memory.md R47, D2; log 10). -/
def wordOfBytes (first second : Byte) : Word := first ++ second

/-- The two bytes of a word as memory holds them, the byte of the lower address first (20_memory.md R47). -/
def bytesOfWord (w : Word) : Byte × Byte := (w.extractLsb' Machine.regBits _, w.extractLsb' 0 _)

/-- Decoding the two bytes at an instruction's address. -/
def decodeBytes (first second : Byte) : Decoded := decode (wordOfBytes first second)

/-- What the decoder reads from an instruction whose bits are `w`, numbered as spec/opcode_table.json numbers them; bits at
and above `nbits` are 0. The word is laid out in bytes as memory holds it and handed to the decoder. -/
def decodeTableWord (nbits w : Nat) : Option Instr :=
  let bytes := bytesOfWord (BitVec.ofNat _ (w % 2 ^ nbits))
  match decodeBytes bytes.1 bytes.2 with
  | .instr i => some i
  | .unknown _ => none

/-- Format ADDR: `OP NNN` (30_encoding.md R62). -/
def encodeAddr (op : BitVec 4) (nnn : Addr) : Word := op ++ nnn

/-- Format XNN: `OP X NN`. -/
def encodeXNN (op : BitVec 4) (x : Reg) (nn : Byte) : Word := (op ++ x : Byte) ++ nn

/-- Formats XYS and XYN: `OP X Y sub` or `OP X Y N`. -/
def encodeXYN (op : BitVec 4) (x y : Reg) (n : Nibble) : Word := (op ++ x : Byte) ++ (y ++ n : Byte)

/-- The encoder, written from the table of 30_encoding.md R64. -/
def encode : Instr → Word
  | .cls => 0x00E0#16
  | .ret => 0x00EE#16
  | .jp nnn => encodeAddr 0x1#4 nnn
  | .call nnn => encodeAddr 0x2#4 nnn
  | .seVxNN x nn => encodeXNN 0x3#4 x nn
  | .sneVxNN x nn => encodeXNN 0x4#4 x nn
  | .seVxVy x y => encodeXYN 0x5#4 x y 0x0#4
  | .ldVxNN x nn => encodeXNN 0x6#4 x nn
  | .addVxNN x nn => encodeXNN 0x7#4 x nn
  | .ldVxVy x y => encodeXYN 0x8#4 x y 0x0#4
  | .orVxVy x y => encodeXYN 0x8#4 x y 0x1#4
  | .andVxVy x y => encodeXYN 0x8#4 x y 0x2#4
  | .xorVxVy x y => encodeXYN 0x8#4 x y 0x3#4
  | .addVxVy x y => encodeXYN 0x8#4 x y 0x4#4
  | .subVxVy x y => encodeXYN 0x8#4 x y 0x5#4
  | .shrVxVy x y => encodeXYN 0x8#4 x y 0x6#4
  | .subnVxVy x y => encodeXYN 0x8#4 x y 0x7#4
  | .shlVxVy x y => encodeXYN 0x8#4 x y 0xE#4
  | .sneVxVy x y => encodeXYN 0x9#4 x y 0x0#4
  | .ldINNN nnn => encodeAddr 0xA#4 nnn
  | .jpV0NNN nnn => encodeAddr 0xB#4 nnn
  | .rndVxNN x nn => encodeXNN 0xC#4 x nn
  | .drwVxVyN x y n => encodeXYN 0xD#4 x y n
  | .skpVx x => encodeXNN 0xE#4 x 0x9E#8
  | .sknpVx x => encodeXNN 0xE#4 x 0xA1#8
  | .ldVxDT x => encodeXNN 0xF#4 x 0x07#8
  | .ldVxK x => encodeXNN 0xF#4 x 0x0A#8
  | .ldDTVx x => encodeXNN 0xF#4 x 0x15#8
  | .ldSTVx x => encodeXNN 0xF#4 x 0x18#8
  | .addIVx x => encodeXNN 0xF#4 x 0x1E#8
  | .ldFVx x => encodeXNN 0xF#4 x 0x29#8
  | .ldBVx x => encodeXNN 0xF#4 x 0x33#8
  | .ldMemVx x => encodeXNN 0xF#4 x 0x55#8
  | .ldVxMem x => encodeXNN 0xF#4 x 0x65#8

/-- A row's comparison in 30_encoding.md R64: a word belongs to the row when `w & mask = match`. The pair is
`(mask, match)`, copied from the table and used by no decoder: statements compare the decoder with it. -/
def Instr.row : Instr → Word × Word
  | .cls => (0xFFFF#16, 0x00E0#16)
  | .ret => (0xFFFF#16, 0x00EE#16)
  | .jp _ => (0xF000#16, 0x1000#16)
  | .call _ => (0xF000#16, 0x2000#16)
  | .seVxNN _ _ => (0xF000#16, 0x3000#16)
  | .sneVxNN _ _ => (0xF000#16, 0x4000#16)
  | .seVxVy _ _ => (0xF00F#16, 0x5000#16)
  | .ldVxNN _ _ => (0xF000#16, 0x6000#16)
  | .addVxNN _ _ => (0xF000#16, 0x7000#16)
  | .ldVxVy _ _ => (0xF00F#16, 0x8000#16)
  | .orVxVy _ _ => (0xF00F#16, 0x8001#16)
  | .andVxVy _ _ => (0xF00F#16, 0x8002#16)
  | .xorVxVy _ _ => (0xF00F#16, 0x8003#16)
  | .addVxVy _ _ => (0xF00F#16, 0x8004#16)
  | .subVxVy _ _ => (0xF00F#16, 0x8005#16)
  | .shrVxVy _ _ => (0xF00F#16, 0x8006#16)
  | .subnVxVy _ _ => (0xF00F#16, 0x8007#16)
  | .shlVxVy _ _ => (0xF00F#16, 0x800E#16)
  | .sneVxVy _ _ => (0xF00F#16, 0x9000#16)
  | .ldINNN _ => (0xF000#16, 0xA000#16)
  | .jpV0NNN _ => (0xF000#16, 0xB000#16)
  | .rndVxNN _ _ => (0xF000#16, 0xC000#16)
  | .drwVxVyN _ _ _ => (0xF000#16, 0xD000#16)
  | .skpVx _ => (0xF0FF#16, 0xE09E#16)
  | .sknpVx _ => (0xF0FF#16, 0xE0A1#16)
  | .ldVxDT _ => (0xF0FF#16, 0xF007#16)
  | .ldVxK _ => (0xF0FF#16, 0xF00A#16)
  | .ldDTVx _ => (0xF0FF#16, 0xF015#16)
  | .ldSTVx _ => (0xF0FF#16, 0xF018#16)
  | .addIVx _ => (0xF0FF#16, 0xF01E#16)
  | .ldFVx _ => (0xF0FF#16, 0xF029#16)
  | .ldBVx _ => (0xF0FF#16, 0xF033#16)
  | .ldMemVx _ => (0xF0FF#16, 0xF055#16)
  | .ldVxMem _ => (0xF0FF#16, 0xF065#16)

/-- The word belongs to the instruction's row of the table. -/
def Instr.matchesWord (i : Instr) (w : Word) : Bool := w &&& i.row.1 == i.row.2

/-- The words of 30_encoding.md R69's table, family by family: those no row matches. Written from that table and used by no
decoder. -/
def isUnknownWord (w : Word) : Bool :=
  (fieldOp w == 0x0#4 && w != 0x00E0#16 && w != 0x00EE#16)
  || ((fieldOp w == 0x5#4 || fieldOp w == 0x9#4) && fieldN w != 0x0#4)
  || (fieldOp w == 0x8#4 && [0x8#4, 0x9#4, 0xA#4, 0xB#4, 0xC#4, 0xD#4, 0xF#4].contains (fieldN w))
  || (fieldOp w == 0xE#4 && !([0x9E#8, 0xA1#8].contains (fieldNN w)))
  || (fieldOp w == 0xF#4 &&
      !([0x07#8, 0x0A#8, 0x15#8, 0x18#8, 0x1E#8, 0x29#8, 0x33#8, 0x55#8, 0x65#8].contains (fieldNN w)))

end Sys2Proof
end

