-- ==== Sys2Proof/Machine/Defaults.lean ====
section
/-! DEFINITION. The documented defaults of the configuration record (00_scope.md R5). -/

namespace Sys2Proof.Machine

/-- The default configuration: `SHIFT_SRC = VY`, `JUMP_OFFSET_REG = V0`, `DRAW_EDGE = CLIP`, `INDEX_INCREMENT = NONE` and the
font of 20_memory.md R44 (00_scope.md R5, D23, D11, D10; log 16). -/
def defaultConfig : Config where
  shiftSrc := .vy
  jumpOffsetReg := .v0
  drawEdge := .clip
  indexIncrement := .none
  font := defaultFont

end Sys2Proof.Machine
end

