-- ==== Sys2Proof/Machine/State.lean ====
section
/-! DEFINITION. The machine's whole state as plain data (10_state.md), its reset value (R28), the reasons a step can stop,
and the events of its three agents (60_exceptions.md R183). -/

namespace Sys2Proof.Machine

open Sys2Proof

/-- The fatal faults (60_exceptions.md R171). A cycle that raises one latches it in `State.fault` (a next state); a cycle of
a core that already holds one answers `Outcome.fault` with it (10_state.md R25). Both are the spec's own behaviour: safe. -/
inductive Fault where
  /-- CALL with SP = 16 (40_cycle_control.md R84). Raised by CALL, answered again by every later cycle. Safe. -/
  | stackOverflow
  /-- RET with SP = 0 (40_cycle_control.md R83). Raised by RET, answered again by every later cycle. Safe. -/
  | stackUnderflow
  /-- A fetch with PC > 0x0FFE (40_cycle_control.md R81, D6; log 12). Raised by the cycle, answered again by every later
  cycle. Safe. -/
  | pcOutOfRange
deriving DecidableEq, Repr

/-- The reasons a step is refused. No meaning of this model refuses. -/
inductive Refusal where
  /-- An instruction whose arm in exec has no meaning yet; no arm is left in that form. Safe. -/
  | notModelled (mnemonic : String)
deriving DecidableEq, Repr

/-- `STATUS`, the execution status (10_state.md R24). -/
inductive Status where
  | running
  | waitingForKey (x : Reg)
deriving DecidableEq, Repr

/-- The events of the three agents (60_exceptions.md R183). -/
inductive Event where
  | reset                                  -- R185, R200
  | load (bytes : List Byte)               -- R184
  | step                                   -- R187; its input `rnd` is the free value `Config.rnd` (R150)
  | tick                                   -- R180
  | keySet (k : Nat) (pressed : Bool)      -- R186
  | framebufferSnapshot                    -- R188
  | debugSnapshot                          -- R189
deriving DecidableEq, Repr

/-- `MEM` (20_memory.md R40): addresses strictly rising, no entry equal to what an unlisted address reads as. -/
abbrev Memory := List Host.Cell

/-- `FB` (10_state.md R20): 32 rows from the top, each of 64 pixels from the left; true is on. -/
abbrev FrameBuffer := Vector (Vector Bool fbW) fbH

/-- The state (10_state.md, its table). The last three fields are the model's own: parameters of the transition relation
(R27) that stand here because exec and step take nothing else. -/
structure State where
  /-- `MEM`, R40 -/
  mem     : Memory
  /-- `V0`..`VF`, R10 -/
  v       : Vector Byte nregs
  /-- `I`, R15 -/
  i       : Index
  /-- `PC`, R16 -/
  pc      : CodeAddr
  /-- `SP`, R19: the number of live entries, 0..16 -/
  sp      : Fin (stackDepth + 1)
  /-- `STACK`, R19 -/
  stack   : Vector ReturnAddr stackDepth
  /-- `DT`, R22 -/
  dt      : Byte
  /-- `ST`, R22 -/
  st      : Byte
  /-- `FB`, R20 -/
  fb      : FrameBuffer
  /-- `KEYS`, R21; true is pressed -/
  keys    : Vector Bool nkeys
  /-- `STATUS`, R24 -/
  status  : Status
  /-- `FAULT`, R25 -/
  fault   : Option Fault
  /-- The configuration record, R5 of 00_scope.md. DESIGN CHOICE, safe: no event changes it (log 1). -/
  cfg     : Config
  /-- The agenda: events still to come, oldest first; empty means that Steps follow. DESIGN CHOICE, unsafe (log 2). -/
  pending : List Event
  /-- How many random bytes have been used. DESIGN CHOICE, safe: the byte is free (log 3). -/
  draw    : Nat
deriving DecidableEq, Repr

/-- The machine right after Reset (10_state.md R28, 70_reset_and_hazards.md R200): font loaded (the memory list is empty
because an unlisted address reads as its reset content), PC at 0x200, all else zeroed. The configuration holds the
documented defaults (log 1, 16), the agenda is empty (log 2) and no random byte is used (log 3). -/
def State.reset : State where
  mem := []
  v := Vector.replicate nregs 0
  i := 0
  pc := BitVec.ofNat _ progBase
  sp := 0
  stack := Vector.replicate stackDepth 0
  dt := 0
  st := 0
  fb := Vector.replicate fbH (Vector.replicate fbW false)
  keys := Vector.replicate nkeys false
  status := .running
  fault := none
  cfg := defaultConfig
  pending := []
  draw := 0

end Sys2Proof.Machine
end

