-- ==== Sys2Proof/Machine/Ops.lean ====
section
/-! DEFINITION. The named operations over memory, registers, the program counter, the call stack and the fault latch. -/

namespace Sys2Proof.Machine

open Sys2Proof

/-! Memory -/

/-- What an unlisted address reads as: its content after Reset, the font byte in the font region and 0 elsewhere
(10_state.md R28, 20_memory.md R41; log 6). -/
def Memory.blank (font : Vector Byte fontSize) (a : Nat) : Byte :=
  if h : fontBase ≤ a ∧ a < fontBase + fontSize then font[a - fontBase]'(by omega) else BitVec.ofNat _ 0

/-- `MEM[a]` (20_memory.md R50): the listed byte, else the reset content. -/
def Memory.read (font : Vector Byte fontSize) : Memory → Nat → Byte
  | [], a => Memory.blank font a
  | (b, u) :: m, a => if a = b then u else Memory.read font m a

/-- The list with the entry for `a` set to `u`, addresses still rising. -/
def Memory.insert : Memory → Nat → Byte → Memory
  | [], a, u => [(a, u)]
  | (b, t) :: m, a, u =>
    if a < b then (a, u) :: (b, t) :: m
    else if a = b then (a, u) :: m
    else (b, t) :: Memory.insert m a u

/-- The list with the entry for `a` taken out. -/
def Memory.erase (m : Memory) (a : Nat) : Memory := m.filter (fun c => c.1 != a)

/-- `MEM[a] <- u` (00_scope.md, MemWrite). Writing what an unlisted address reads as removes the entry. Outside memory
nothing is written; no rule writes there (20_memory.md R46; log 6). -/
def Memory.write (font : Vector Byte fontSize) (m : Memory) (a : Nat) (u : Byte) : Memory :=
  if a < memSize then
    if u = Memory.blank font a then Memory.erase m a else Memory.insert m a u
  else m

/-- Single bytes written at rising addresses from `a` (20_memory.md R45, R48). -/
def Memory.writeBytes (font : Vector Byte fontSize) : Memory → Nat → List Byte → Memory
  | m, _, [] => m
  | m, a, u :: us => Memory.writeBytes font (Memory.write font m a u) (a + 1) us

/-- The canonical form: addresses strictly rising and inside memory, no entry equal to what an unlisted address reads as. -/
abbrev Memory.wf (font : Vector Byte fontSize) (m : Memory) : Prop :=
  m.Pairwise (fun c d => c.1 < d.1) ∧ ∀ c ∈ m, c.1 < memSize ∧ c.2 ≠ Memory.blank font c.1

/-- `MemRead(a, 1)` (00_scope.md, memory primitives). -/
def State.readByte (s : State) (a : Nat) : Byte := Memory.read s.cfg.font s.mem a

/-- `n` single bytes from rising addresses (20_memory.md R45). -/
def State.readBytes (s : State) (a n : Nat) : List Byte := (List.range n).map (fun r => s.readByte (a + r))

/-- Single bytes stored at rising addresses from `a` (20_memory.md R45). -/
def State.writeBytes (s : State) (a : Nat) (us : List Byte) : State :=
  { s with mem := Memory.writeBytes s.cfg.font s.mem a us }

/-- A span of `n` bytes from `a` touches an address above 0xFFF (20_memory.md R46). A span of no bytes never does. -/
def spanLeaves (a n : Nat) : Bool := decide (1 ≤ n ∧ a + n - 1 > memSize - 1)

/-! Registers -/

/-- `V[x]` (10_state.md R10). -/
def State.getV (s : State) (x : Reg) : Byte := s.v[x.toNat]'x.isLt

/-- `V[x] <- u`. -/
def State.setV (s : State) (x : Reg) (u : Byte) : State := { s with v := s.v.set x.toNat u x.isLt }

/-- All sixteen registers at once (block load). -/
def State.setRegs (s : State) (v : Vector Byte nregs) : State := { s with v := v }

/-- The result to `V[x]` first, the flag to `VF` last, both computed from operands read before (10_state.md R13, D16;
log 20). -/
def State.setVFlag (s : State) (x : Reg) (result flag : Byte) : State := (s.setV x result).setV vF flag

/-- `I <- w`. -/
def State.setI (s : State) (w : Index) : State := { s with i := w }

/-- `DT <- u`. -/
def State.setDt (s : State) (u : Byte) : State := { s with dt := u }

/-- `ST <- u`. -/
def State.setSt (s : State) (u : Byte) : State := { s with st := u }

/-- `FB <- fb`. -/
def State.setFb (s : State) (fb : FrameBuffer) : State := { s with fb := fb }

/-- `KEYS <- keys`. -/
def State.setKeys (s : State) (keys : Vector Bool nkeys) : State := { s with keys := keys }

/-- `STATUS <- st`. -/
def State.setStatus (s : State) (st : Status) : State := { s with status := st }

/-- The random byte of this cycle is used up; the next RND gets a fresh one (44_keypad_timers_random.md R150; log 3). -/
def State.useRandom (s : State) : State := { s with draw := s.draw + 1 }

/-- The agenda without its head (log 2). -/
def State.setPending (s : State) (es : List Event) : State := { s with pending := es }

/-! Program counter -/

/-- `PC <- w` (10_state.md R16: each completed cycle writes it once). -/
def State.setPc (s : State) (w : CodeAddr) : State := { s with pc := w }

/-- `npc`, the advanced program counter every instruction sees (40_cycle_control.md R80). -/
def State.npc (s : State) : CodeAddr := s.pc + BitVec.ofNat _ instrBytes

/-- The normal advance, `PC <- npc`. -/
def State.advance (s : State) : State := s.setPc s.npc

/-- A skip: `PC <- npc + 2` if the condition holds, else the normal advance (40_cycle_control.md R90). -/
def State.skipIf (s : State) (c : Bool) : State := if c then s.setPc (s.npc + BitVec.ofNat _ instrBytes) else s.advance

/-- A suppressed instruction: none of its effects, only the normal advance (20_memory.md R46, D5; log 11). The diagnostic
`AccessSuppressed` is in Machine/Outputs.lean. -/
def suppress (s : State) : Host.Outcome State Fault Refusal := .next s.advance

/-! Call stack -/

/-- Push a return address: `STACK[SP] <- w; SP <- SP + 1` (10_state.md R19, 40_cycle_control.md R84). -/
def State.push (s : State) (w : ReturnAddr) (h : s.sp.val < stackDepth) : State :=
  { s with stack := s.stack.set s.sp.val w h, sp := ⟨s.sp.val + 1, by omega⟩ }

/-- The newest live entry, `STACK[SP - 1]`. -/
def State.top (s : State) (h : 0 < s.sp.val) : ReturnAddr :=
  s.stack[s.sp.val - 1]'(by have := s.sp.isLt; omega)

/-- Drop the newest entry: `SP <- SP - 1`; the cell keeps its content (10_state.md R19, D17; log 21). -/
def State.pop (s : State) : State := { s with sp := ⟨s.sp.val - 1, by have := s.sp.isLt; omega⟩ }

/-! Faults: taking one, and the only way out -/

/-- Latch a fault: `FAULT <- f`, nothing else changes (60_exceptions.md R170). -/
def State.latch (s : State) (f : Fault) : State := { s with fault := some f }

/-- Take a fatal fault (60_exceptions.md R170, R174, D8; log 14): there is no handler, no saved state and no mode; the cycle
ends with the fault latched and nothing else changed. -/
def raise (f : Fault) (s : State) : Host.Outcome State Fault Refusal := .next (s.latch f)

/-- The Reset event (70_reset_and_hazards.md R200), the only way out of a fault (60_exceptions.md R175). The configuration is
not changed by it (R202); the agenda and the count of used random bytes belong to the environment and go on (log 2, 3). -/
def State.resetEvent (s : State) : State :=
  { State.reset with cfg := s.cfg, pending := s.pending, draw := s.draw }

end Sys2Proof.Machine
end

