-- ==== Sys2Proof/Machine/Flags.lean ====
section
/-! DEFINITION. The results and flags of the ALU (41_alu.md R111): operands are unsigned, results are reduced modulo `2 ^ REG_BITS`,
flags are 0 or 1. Exact results are natural numbers, narrowed once. -/

namespace Sys2Proof.Machine

open Sys2Proof

/-- A flag value: 1 or 0. -/
def flagOf (c : Bool) : Byte := if c then BitVec.ofNat _ 1 else BitVec.ofNat _ 0

/-- `(a + b) mod 256`, where 256 is `2 ^ REG_BITS`. -/
def sum8 (a b : Byte) : Byte := BitVec.ofNat _ (a.toNat + b.toNat)

/-- Carry: 1 iff `a + b > 255`. -/
def carry (a b : Byte) : Byte := flagOf (decide (a.toNat + b.toNat ≥ byteValues))

/-- `(a - b) mod 256`, that is `a - b + 256` when `a < b`. -/
def diff8 (a b : Byte) : Byte := BitVec.ofNat _ (a.toNat + byteValues - b.toNat)

/-- No borrow: 1 iff minuend `≥` subtrahend. -/
def noBorrow (a b : Byte) : Byte := flagOf (decide (a.toNat ≥ b.toNat))

/-- Shift right by one, logical: `s >> 1`. -/
def shr1 (s : Byte) : Byte := BitVec.ofNat _ (s.toNat / 2)

/-- The bit a right shift pushes out: `s & 1`. -/
def outRight (s : Byte) : Byte := BitVec.ofNat _ (s.toNat % 2)

/-- Shift left by one: `(s << 1) mod 256`. -/
def shl1 (s : Byte) : Byte := BitVec.ofNat _ (2 * s.toNat)

/-- The bit a left shift pushes out: `(s >> 7) & 1`. -/
def outLeft (s : Byte) : Byte := BitVec.ofNat _ (s.toNat / 2 ^ (regBits - 1) % 2)

/-- Collision of DRW: 1 iff a pixel went from on to off (43_display.md R141). -/
def collision (hit : Bool) : Byte := flagOf hit

end Sys2Proof.Machine
end

