-- ==== Sys2Proof/Machine/Operands.lean ====
section
/-! DEFINITION. The operand forms: the configured source registers, the key a register names, the glyph address, the
decimal digits, the block of registers, the pixels of a sprite, and which instructions the out-of-range policy
suppresses. -/

namespace Sys2Proof.Machine

open Sys2Proof

/-- The value a shift reads: `V[Y]` under `SHIFT_SRC = VY`, `V[X]` under `VX` (41_alu.md R108, R110, D30; log 31). -/
def shiftSource (x y : Reg) (s : State) : Byte :=
  match s.cfg.shiftSrc with
  | .vy => s.getV y
  | .vx => s.getV x

/-- The offset register of JP V0: `V0`, or `V[X]` with X the top nibble of NNN under `JUMP_OFFSET_REG = VX`
(40_cycle_control.md R92, D29; log 31). -/
def jumpOffsetReg (nnn : Addr) (s : State) : Reg :=
  match s.cfg.jumpOffsetReg with
  | .v0 => BitVec.ofNat _ 0
  | .vx => nnn.extractLsb' 8 _

/-- The value is outside a table of `n` entries: the glyphs for LD F, the keys for SKP and SKNP (20_memory.md R46). -/
def tableLeaves (n : Nat) (u : Byte) : Bool := decide (u.toNat ≥ n)

/-- `KEYS[k]`; false above 15, where no instruction and no event looks (20_memory.md R46, 60_exceptions.md R186). -/
def State.key (s : State) (k : Nat) : Bool := if h : k < nkeys then s.keys[k] else false

/-- The address of the glyph of digit `d`, `FONT_BASE + GLYPH_BYTES * d` (42_index_memory.md R122, D9; log 15). -/
def glyphAddress (d : Byte) : Index := BitVec.ofNat _ (fontBase + glyphBytes * d.toNat)

/-- The three decimal digits, most significant first (42_index_memory.md R124). -/
def bcdDigits (u : Byte) : List Byte :=
  [BitVec.ofNat _ (u.toNat / 100), BitVec.ofNat _ (u.toNat / 10 % 10), BitVec.ofNat _ (u.toNat % 10)]

/-- How many bytes block store and load move: `X + 1` (42_index_memory.md R125, R126). -/
def blockLen (x : Reg) : Nat := x.toNat + 1

/-- `V0`, ..., `VX` in order (42_index_memory.md R125). -/
def blockRegs (x : Reg) (s : State) : List Byte := s.v.toList.take (blockLen x)

/-- The registers after `V[k] <- MEM[a + k]` for k below `n` (42_index_memory.md R126). -/
def loadRegs (s : State) (a : Nat) : Nat → Vector Byte nregs
  | 0 => s.v
  | k + 1 => (loadRegs s a k).setIfInBounds k (s.readByte (a + k))

/-- `I` after a block store or load: unchanged, or advanced past the last byte moved, modulo 65536
(42_index_memory.md R127, D11; log 16). -/
def indexAfterBlock (x : Reg) (s : State) : Index :=
  match s.cfg.indexIncrement with
  | .none => s.i
  | .xPlus1 => BitVec.ofNat _ (s.i.toNat + blockLen x)

/-- The grid cell `(column, row)` at which sprite coordinates land: clipped away outside the grid, or reduced modulo the
grid size (43_display.md R141, R142, D28; log 31). -/
def targetPixel (edge : DrawEdge) (px py : Nat) : Option (Fin fbW × Fin fbH) :=
  match edge with
  | .clip => if h : px < fbW ∧ py < fbH then some (⟨px, h.1⟩, ⟨py, h.2⟩) else none
  | .wrap => some (⟨px % fbW, Nat.mod_lt _ (by decide)⟩, ⟨py % fbH, Nat.mod_lt _ (by decide)⟩)

/-- `FB[y][x]`. -/
def FrameBuffer.pixel (fb : FrameBuffer) (x : Fin fbW) (y : Fin fbH) : Bool := (fb[y.val])[x.val]

/-- `FB[y][x] <- b`. -/
def FrameBuffer.setPixel (fb : FrameBuffer) (x : Fin fbW) (y : Fin fbH) (b : Bool) : FrameBuffer :=
  fb.set y.val ((fb[y.val]).set x.val b)

/-- One sprite bit in sprite column `c`, row `r`: a 1 bit inside the grid flips its pixel and collides if the pixel was on
(43_display.md R141, the body of the inner loop). `(framebuffer, hit)` is what the loops carry. -/
def drawBit (edge : DrawEdge) (x0 y0 r : Nat) (b : Byte) (acc : FrameBuffer × Bool) (c : Nat) : FrameBuffer × Bool :=
  match targetPixel edge (x0 + c) (y0 + r) with
  | none => acc
  | some (x, y) =>
    if b.getLsbD (regBits - 1 - c) then
      (FrameBuffer.setPixel acc.1 x y (!FrameBuffer.pixel acc.1 x y), acc.2 || FrameBuffer.pixel acc.1 x y)
    else acc

/-- One sprite row, one column per bit of a byte, its most significant bit leftmost (43_display.md R141). -/
def drawRow (edge : DrawEdge) (x0 y0 r : Nat) (b : Byte) (acc : FrameBuffer × Bool) : FrameBuffer × Bool :=
  (List.range regBits).foldl (drawBit edge x0 y0 r b) acc

/-- The rows of a sprite from row `r` on (43_display.md R141, the outer loop). -/
def drawRows (edge : DrawEdge) (x0 y0 : Nat) : Nat → List Byte → FrameBuffer × Bool → FrameBuffer × Bool
  | _, [], acc => acc
  | r, b :: bs, acc => drawRows edge x0 y0 (r + 1) bs (drawRow edge x0 y0 r b acc)

/-- The framebuffer and the collision after DRW: the origin is reduced modulo the grid, the `N` rows are read from `I`
(43_display.md R141). -/
def drawSprite (x y : Reg) (n : Nibble) (s : State) : FrameBuffer × Bool :=
  drawRows s.cfg.drawEdge ((s.getV x).toNat % fbW) ((s.getV y).toNat % fbH) 0
    (s.readBytes s.i.toNat n.toNat) (s.fb, false)

/-- The framebuffer with every pixel off (43_display.md R140). -/
def clearFb : FrameBuffer := Vector.replicate fbH (Vector.replicate fbW false)

/-- The instruction is suppressed as a whole in this state (20_memory.md R46, D5, D24; log 11, 27): a data access would leave
memory, or a register value leaves the table it indexes. -/
def suppressed (s : State) : Instr → Bool
  | .drwVxVyN _ _ n => spanLeaves s.i.toNat n.toNat
  | .ldBVx _ => spanLeaves s.i.toNat 3
  | .ldMemVx x | .ldVxMem x => spanLeaves s.i.toNat (blockLen x)
  | .ldFVx x => tableLeaves glyphCount (s.getV x)
  | .skpVx x | .sknpVx x => tableLeaves nkeys (s.getV x)
  | .cls | .ret | .jp _ | .call _ | .seVxNN _ _ | .sneVxNN _ _ | .seVxVy _ _ | .ldVxNN _ _ | .addVxNN _ _
  | .ldVxVy _ _ | .orVxVy _ _ | .andVxVy _ _ | .xorVxVy _ _ | .addVxVy _ _ | .subVxVy _ _ | .shrVxVy _ _
  | .subnVxVy _ _ | .shlVxVy _ _ | .sneVxVy _ _ | .ldINNN _ | .jpV0NNN _ | .rndVxNN _ _ | .ldVxDT _ | .ldVxK _
  | .ldDTVx _ | .ldSTVx _ | .addIVx _ => false

end Sys2Proof.Machine
end

