-- ==== Sys2Proof/Machine/Alu.lean ====
section
/-! DEFINITION. Immediate loads and the register-register ALU group (41_alu.md). Each ends with the normal advance. -/

namespace Sys2Proof.Machine

open Sys2Proof

/-- `LD Vx,NN`, 6XNN (R100). -/
def execLdVxNN (x : Reg) (nn : Byte) (s : State) : Host.Outcome State Fault Refusal := .next (s.setV x nn).advance

/-- `ADD Vx,NN`, 7XNN (R101): no flag. -/
def execAddVxNN (x : Reg) (nn : Byte) (s : State) : Host.Outcome State Fault Refusal :=
  .next (s.setV x (sum8 (s.getV x) nn)).advance

/-- `LD Vx,Vy`, 8XY0 (R102). -/
def execLdVxVy (x y : Reg) (s : State) : Host.Outcome State Fault Refusal := .next (s.setV x (s.getV y)).advance

/-- `OR Vx,Vy`, 8XY1 (R103): no flag (D18; log 22). -/
def execOrVxVy (x y : Reg) (s : State) : Host.Outcome State Fault Refusal :=
  .next (s.setV x (s.getV x ||| s.getV y)).advance

/-- `AND Vx,Vy`, 8XY2 (R104): no flag (D18; log 22). -/
def execAndVxVy (x y : Reg) (s : State) : Host.Outcome State Fault Refusal :=
  .next (s.setV x (s.getV x &&& s.getV y)).advance

/-- `XOR Vx,Vy`, 8XY3 (R105): no flag (D18; log 22). -/
def execXorVxVy (x y : Reg) (s : State) : Host.Outcome State Fault Refusal :=
  .next (s.setV x (s.getV x ^^^ s.getV y)).advance

/-- `ADD Vx,Vy`, 8XY4 (R106): VF is the carry, written last. -/
def execAddVxVy (x y : Reg) (s : State) : Host.Outcome State Fault Refusal :=
  let a := s.getV x
  let b := s.getV y
  .next (s.setVFlag x (sum8 a b) (carry a b)).advance

/-- `SUB Vx,Vy`, 8XY5 (R107): VF is no-borrow of Vx - Vy, written last. -/
def execSubVxVy (x y : Reg) (s : State) : Host.Outcome State Fault Refusal :=
  let a := s.getV x
  let b := s.getV y
  .next (s.setVFlag x (diff8 a b) (noBorrow a b)).advance

/-- `SHR Vx,Vy`, 8XY6 (R108): VF is the bit shifted out, written last. -/
def execShrVxVy (x y : Reg) (s : State) : Host.Outcome State Fault Refusal :=
  let a := shiftSource x y s
  .next (s.setVFlag x (shr1 a) (outRight a)).advance

/-- `SUBN Vx,Vy`, 8XY7 (R109): VF is no-borrow of Vy - Vx, written last. -/
def execSubnVxVy (x y : Reg) (s : State) : Host.Outcome State Fault Refusal :=
  let a := s.getV x
  let b := s.getV y
  .next (s.setVFlag x (diff8 b a) (noBorrow b a)).advance

/-- `SHL Vx,Vy`, 8XYE (R110): VF is the bit shifted out, written last. -/
def execShlVxVy (x y : Reg) (s : State) : Host.Outcome State Fault Refusal :=
  let a := shiftSource x y s
  .next (s.setVFlag x (shl1 a) (outLeft a)).advance

end Sys2Proof.Machine
end

