-- ==== Sys2Proof/Machine/Control.lean ====
section
/-! DEFINITION. Control transfer (40_cycle_control.md): JP, RET, CALL, the four skips, JP V0. -/

namespace Sys2Proof.Machine

open Sys2Proof

/-- `RET`, 00EE (R83): underflow is a fault; else pop the newest return address into PC. -/
def execRet (s : State) : Host.Outcome State Fault Refusal :=
  if h : 0 < s.sp.val then .next (s.pop.setPc (s.top h)) else raise .stackUnderflow s

/-- `JP NNN`, 1NNN (R82). -/
def execJp (nnn : Addr) (s : State) : Host.Outcome State Fault Refusal := .next (s.setPc (nnn.setWidth _))

/-- `CALL NNN`, 2NNN (R84): overflow is a fault; else push the advanced program counter, then jump. -/
def execCall (nnn : Addr) (s : State) : Host.Outcome State Fault Refusal :=
  if h : s.sp.val < stackDepth then .next ((s.push s.npc h).setPc (nnn.setWidth _)) else raise .stackOverflow s

/-- `SE Vx,NN`, 3XNN (R85). -/
def execSeVxNN (x : Reg) (nn : Byte) (s : State) : Host.Outcome State Fault Refusal :=
  .next (s.skipIf (decide (s.getV x = nn)))

/-- `SNE Vx,NN`, 4XNN (R86). -/
def execSneVxNN (x : Reg) (nn : Byte) (s : State) : Host.Outcome State Fault Refusal :=
  .next (s.skipIf (decide (s.getV x ≠ nn)))

/-- `SE Vx,Vy`, 5XY0 (R87). -/
def execSeVxVy (x y : Reg) (s : State) : Host.Outcome State Fault Refusal :=
  .next (s.skipIf (decide (s.getV x = s.getV y)))

/-- `SNE Vx,Vy`, 9XY0 (R88). -/
def execSneVxVy (x y : Reg) (s : State) : Host.Outcome State Fault Refusal :=
  .next (s.skipIf (decide (s.getV x ≠ s.getV y)))

/-- `JP V0,NNN`, BNNN (R92): the sum is not reduced modulo 4096 (D6; log 12). -/
def execJpV0NNN (nnn : Addr) (s : State) : Host.Outcome State Fault Refusal :=
  .next (s.setPc (BitVec.ofNat _ (nnn.toNat + (s.getV (jumpOffsetReg nnn s)).toNat)))

end Sys2Proof.Machine
end

