-- ==== Sys2Proof/Machine/Display.lean ====
section
/-! DEFINITION. Display instructions (43_display.md). -/

namespace Sys2Proof.Machine

open Sys2Proof

/-- `CLS`, 00E0 (R140): every pixel off; VF is not changed. -/
def execCls (s : State) : Host.Outcome State Fault Refusal := .next (s.setFb clearFb).advance

/-- `DRW Vx,Vy,N`, DXYN (R141): XOR the sprite at I into the framebuffer; VF is the collision, written last. -/
def execDrwVxVyN (x y : Reg) (n : Nibble) (s : State) : Host.Outcome State Fault Refusal :=
  if spanLeaves s.i.toNat n.toNat then suppress s
  else
    let drawn := drawSprite x y n s
    .next ((s.setFb drawn.1).setV vF (collision drawn.2)).advance

end Sys2Proof.Machine
end

