-- ==== Sys2Proof/Machine/IndexMemory.lean ====
section
/-! DEFINITION. Index register and memory instructions (42_index_memory.md). Each ends with the normal advance; a span that
leaves memory, or a digit above 15, suppresses the whole instruction (20_memory.md R46). -/

namespace Sys2Proof.Machine

open Sys2Proof

/-- `LD I,NNN`, ANNN (R120). -/
def execLdINNN (nnn : Addr) (s : State) : Host.Outcome State Fault Refusal := .next (s.setI (nnn.setWidth _)).advance

/-- `ADD I,Vx`, FX1E (R121): modulo 65536 (D12; log 17), no flag. -/
def execAddIVx (x : Reg) (s : State) : Host.Outcome State Fault Refusal :=
  .next (s.setI (BitVec.ofNat _ (s.i.toNat + (s.getV x).toNat))).advance

/-- `LD F,Vx`, FX29 (R122): the address of the glyph of digit Vx. -/
def execLdFVx (x : Reg) (s : State) : Host.Outcome State Fault Refusal :=
  if tableLeaves glyphCount (s.getV x) then suppress s else .next (s.setI (glyphAddress (s.getV x))).advance

/-- `LD B,Vx`, FX33 (R124): three decimal digits at I, I+1, I+2. -/
def execLdBVx (x : Reg) (s : State) : Host.Outcome State Fault Refusal :=
  if spanLeaves s.i.toNat 3 then suppress s else .next (s.writeBytes s.i.toNat (bcdDigits (s.getV x))).advance

/-- `LD [I],Vx`, FX55 (R125): V0..VX to memory from I. -/
def execLdMemVx (x : Reg) (s : State) : Host.Outcome State Fault Refusal :=
  if spanLeaves s.i.toNat (blockLen x) then suppress s
  else .next ((s.writeBytes s.i.toNat (blockRegs x s)).setI (indexAfterBlock x s)).advance

/-- `LD Vx,[I]`, FX65 (R126): V0..VX from memory at I. -/
def execLdVxMem (x : Reg) (s : State) : Host.Outcome State Fault Refusal :=
  if spanLeaves s.i.toNat (blockLen x) then suppress s
  else .next ((s.setRegs (loadRegs s s.i.toNat (blockLen x))).setI (indexAfterBlock x s)).advance

end Sys2Proof.Machine
end

