-- ==== Sys2Proof/Machine/KeypadTimersRandom.lean ====
section
/-! DEFINITION. Random, keypad and timer instructions (44_keypad_timers_random.md). -/

namespace Sys2Proof.Machine

open Sys2Proof

/-- `RND Vx,NN`, CXNN (R151): the random byte of the cycle, a free value (R150; log 3), masked by NN. -/
def execRndVxNN (x : Reg) (nn : Byte) (s : State) : Host.Outcome State Fault Refusal :=
  .next (s.setV x (Config.rnd s.draw &&& nn)).useRandom.advance

/-- `SKP Vx`, EX9E (R152): skip if key Vx is pressed; above 15 a no-op that does not skip (D5; log 11). -/
def execSkpVx (x : Reg) (s : State) : Host.Outcome State Fault Refusal :=
  if tableLeaves nkeys (s.getV x) then suppress s else .next (s.skipIf (s.key (s.getV x).toNat))

/-- `SKNP Vx`, EXA1 (R153): skip if key Vx is not pressed; above 15 a no-op that does not skip (D5; log 11). -/
def execSknpVx (x : Reg) (s : State) : Host.Outcome State Fault Refusal :=
  if tableLeaves nkeys (s.getV x) then suppress s else .next (s.skipIf (!s.key (s.getV x).toNat))

/-- `LD Vx,DT`, FX07 (R154). -/
def execLdVxDT (x : Reg) (s : State) : Host.Outcome State Fault Refusal := .next (s.setV x s.dt).advance

/-- `LD Vx,K`, FX0A (R155): suspend the instruction stream; Vx is written by the KeySet that ends the wait
(60_exceptions.md R186), and PC is already advanced (D13; log 18). -/
def execLdVxK (x : Reg) (s : State) : Host.Outcome State Fault Refusal := .next (s.setStatus (.waitingForKey x)).advance

/-- `LD DT,Vx`, FX15 (R156). -/
def execLdDTVx (x : Reg) (s : State) : Host.Outcome State Fault Refusal := .next (s.setDt (s.getV x)).advance

/-- `LD ST,Vx`, FX18 (R157). -/
def execLdSTVx (x : Reg) (s : State) : Host.Outcome State Fault Refusal := .next (s.setSt (s.getV x)).advance

end Sys2Proof.Machine
end

