-- ==== Sys2Proof/Machine/Cycle.lean ====
section
/-! DEFINITION. One cycle: fetch, decode, execute (40_cycle_control.md R80), and the unknown word (30_encoding.md R68). -/

namespace Sys2Proof.Machine

open Sys2Proof

/-- The two bytes at PC and PC + 1 (20_memory.md R47, R49: any alignment). -/
def State.fetchBytes (s : State) : Byte × Byte := (s.readByte s.pc.toNat, s.readByte (s.pc.toNat + 1))

/-- The fetched word, first byte in the high half (20_memory.md R47). -/
def State.fetchWord (s : State) : Word := wordOfBytes s.fetchBytes.1 s.fetchBytes.2

/-- What the fetched bytes decode to. -/
def State.fetched (s : State) : Decoded := decodeBytes s.fetchBytes.1 s.fetchBytes.2

/-- The fetch would leave memory (40_cycle_control.md R81, D6; log 12). -/
def State.pcLeaves (s : State) : Bool := decide (s.pc.toNat > lastFetch)

/-- `UNKNOWN` (30_encoding.md R68): a successful cycle that only advances PC. Its diagnostic is in Machine/Outputs.lean. -/
def execUnknown (s : State) : Host.Outcome State Fault Refusal := .next s.advance

/-- Execute what was decoded. -/
def execDecoded (d : Decoded) (s : State) : Host.Outcome State Fault Refusal :=
  match d with
  | .instr i => exec i s
  | .unknown _ => execUnknown s

/-- The Step event (40_cycle_control.md R80), its checks in the order of 60_exceptions.md R173: a latched fault is returned
again with nothing changed (log 4), a waiting core idles, a fetch outside memory faults, and otherwise the fetched
instruction runs. -/
def cycle (s : State) : Host.Outcome State Fault Refusal :=
  match s.fault with
  | some f => .fault f
  | none =>
    match s.status with
    | .waitingForKey _ => .next s
    | .running => if s.pcLeaves then raise .pcOutOfRange s else execDecoded s.fetched s

end Sys2Proof.Machine
end

