-- ==== Sys2Proof/Machine/Events.lean ====
section
/-! DEFINITION. The events of the three agents (60_exceptions.md R183) and the agenda that orders them. -/

namespace Sys2Proof.Machine

open Sys2Proof

/-- A timer one step closer to zero, never below it (10_state.md R22). -/
def countDown (u : Byte) : Byte := BitVec.ofNat _ (u.toNat - 1)

/-- The Tick event (60_exceptions.md R180): both timers, in every state (D27; log 30). -/
def State.tick (s : State) : State := (s.setDt (countDown s.dt)).setSt (countDown s.st)

/-- The Load event (60_exceptions.md R184, D20; log 24): an image longer than the program region changes nothing. -/
def State.load (s : State) (bytes : List Byte) : State :=
  if bytes.length > progMax then s else s.writeBytes progBase bytes

/-- The KeySet event (60_exceptions.md R186): sets or clears a flag; a flag that goes from 0 to 1 ends a wait for a key
(D13; log 18). An index above 15 is ignored (D25; log 28). -/
def State.keySet (s : State) (k : Nat) (pressed : Bool) : State :=
  if h : k < nkeys then
    let latched := s.setKeys (s.keys.set k pressed h)
    if pressed && !s.key k then
      match s.status with
      | .waitingForKey x => (latched.setV x (BitVec.ofNat _ k)).setStatus .running
      | .running => latched
    else latched
  else s

/-- The transition of an event (60_exceptions.md R183). The snapshots are values (Machine/Outputs.lean) and change nothing
(R188, R189). -/
def fire (e : Event) (s : State) : Host.Outcome State Fault Refusal :=
  match e with
  | .reset => .next s.resetEvent
  | .load bytes => .next (s.load bytes)
  | .step => cycle s
  | .tick => .next s.tick
  | .keySet k pressed => .next (s.keySet k pressed)
  | .framebufferSnapshot => .next s
  | .debugSnapshot => .next s

/-- An event of the agenda that only reports a latched fault again changes nothing (10_state.md R25), and the agenda goes on:
Tick, KeySet, Load and Reset still act on a faulted core (60_exceptions.md R174, R175; log 4). -/
def goOn (s : State) (o : Host.Outcome State Fault Refusal) : Host.Outcome State Fault Refusal :=
  match o with
  | .fault _ => .next s
  | .next t => .next t
  | .refused r => .refused r

/-- The next event of the machine: the head of the agenda, taken off it, or a Step when the agenda is empty (log 2). -/
def nextEvent (s : State) : Host.Outcome State Fault Refusal :=
  match s.pending with
  | [] => cycle s
  | e :: es => goOn (s.setPending es) (fire e (s.setPending es))

/-- Place an instruction where the next event fetches it: an empty agenda, a running core without a fault, PC inside memory,
and the word's two bytes at PC (20_memory.md R47). It stands for the Load of a program (log 7). -/
def State.placeWord (s : State) (w : Word) : State :=
  let pc := if s.pcLeaves then BitVec.ofNat _ progBase else s.pc
  let bytes := bytesOfWord w
  { s with pending := [], status := .running, fault := none, pc := pc }.writeBytes pc.toNat [bytes.1, bytes.2]

end Sys2Proof.Machine
end

