-- ==== Sys2Proof/Machine/Outputs.lean ====
section
/-! DEFINITION. What the events return. Outputs are functions of the state the event starts from; no rule reads one and
they change no state (60_exceptions.md R172, R176, R182, R184, R188, R189; log 5). -/

namespace Sys2Proof.Machine

open Sys2Proof

/-- The diagnostic a Step returns beside its result (60_exceptions.md R176, D22; log 26). -/
inductive Diagnostic where
  | noDiag
  | unknownOpcode (w : Word) (pc0 : CodeAddr)
  | accessSuppressed (w : Word) (pc0 : CodeAddr)
  | idle
deriving DecidableEq, Repr

/-- The result of a Step: success or the fault kind (60_exceptions.md R172). -/
inductive StepResult where
  | success
  | faulted (f : Fault)
deriving DecidableEq, Repr

/-- The result of a Load (60_exceptions.md R184). -/
inductive LoadResult where
  | ok
  | sizeOverflow
deriving DecidableEq, Repr

/-- What the debug snapshot shows: the elements 60_exceptions.md R189 lists and, so that the host can read a faulting word
through it (R172), every byte of MEM in address order. DESIGN CHOICE, safe: R189 lets a model expose MEM (log 38). -/
structure DebugView where
  pc    : CodeAddr
  i     : Index
  v     : Vector Byte nregs
  stack : Vector ReturnAddr stackDepth
  sp    : Fin (stackDepth + 1)
  mem   : Vector Byte memSize
deriving DecidableEq, Repr

/-- What an event returns to the host. -/
inductive Output where
  | none
  | stepped (r : StepResult) (d : Diagnostic)
  | loaded (r : LoadResult)
  | framebuffer (fb : FrameBuffer)
  | debug (view : DebugView)
deriving DecidableEq, Repr

/-- The diagnostic of a Step from this state (60_exceptions.md R176). A Step that returns a fault carries none. -/
def diagnostic (s : State) : Diagnostic :=
  match s.fault with
  | some _ => .noDiag
  | none =>
    match s.status with
    | .waitingForKey _ => .idle
    | .running =>
      if s.pcLeaves then .noDiag
      else
        match s.fetched with
        | .unknown w => .unknownOpcode w s.pc
        | .instr i => if suppressed s i then .accessSuppressed s.fetchWord s.pc else .noDiag

/-- The result of a Step from this state (40_cycle_control.md R80): the fault the cycle returns again or has just latched,
else success. -/
def stepResult (s : State) : StepResult :=
  match cycle s with
  | .fault f => .faulted f
  | .refused _ => .success
  | .next t =>
    match t.fault with
    | some f => .faulted f
    | none => .success

/-- The result of a Load of this image (60_exceptions.md R184). -/
def loadResult (bytes : List Byte) : LoadResult := if bytes.length > progMax then .sizeOverflow else .ok

/-- The debug snapshot (60_exceptions.md R172, R189; log 38). -/
def State.debugView (s : State) : DebugView where
  pc := s.pc
  i := s.i
  v := s.v
  stack := s.stack
  sp := s.sp
  mem := Vector.ofFn (fun a : Fin memSize => s.readByte a.val)

/-- The word at PC, read from the snapshot alone: after a fault, the faulting word (60_exceptions.md R172). None where no word
was fetched, PC being outside memory. -/
def DebugView.wordAtPc (view : DebugView) : Option Word :=
  match view.mem[view.pc.toNat]?, view.mem[view.pc.toNat + 1]? with
  | some first, some second => some (wordOfBytes first second)
  | _, _ => none

/-- `sound_active`, 1 exactly while ST is not 0 (60_exceptions.md R182). PRESUMED, safe: the customary meaning (D21, log 25). -/
def State.soundActive (s : State) : Bool := decide (s.st ≠ BitVec.ofNat _ 0)

/-- What the event returns when it fires in this state. -/
def output (e : Event) (s : State) : Output :=
  match e with
  | .reset => .none
  | .load bytes => .loaded (loadResult bytes)
  | .step => .stepped (stepResult s) (diagnostic s)
  | .tick => .none
  | .keySet _ _ => .none
  | .framebufferSnapshot => .framebuffer s.fb
  | .debugSnapshot => .debug s.debugView

end Sys2Proof.Machine
end

