-- ==== Sys2Proof/Machine/Step.lean ====
section
/-! DEFINITION. The machine's step, and the placing of an instruction where the next step fetches. -/

namespace Sys2Proof.Machine

open Sys2Proof

/-- One event of the machine (60_exceptions.md R183): a Step when the agenda is empty. -/
def step (s : State) : Host.Outcome State Fault Refusal := nextEvent s

/-- The state with the instruction whose bits are `w`, numbered as spec/opcode_table.json numbers them, where `step` fetches
next; bits at and above `nbits` are 0. -/
def State.withFetchWord (s : State) (nbits w : Nat) : State := s.placeWord (BitVec.ofNat _ (w % 2 ^ nbits))

end Sys2Proof.Machine
end

