-- ==== Sys2Proof/Safety.lean ====
section
/-! DEFINITION. The terms claims are stated in: what a safe state is, the invariants of the machine, and what may change in a step (frames). -/

namespace Sys2Proof.Machine

open Sys2Proof

/-! Safe states -/

/-- No fatal fault is latched (10_state.md R25). -/
def State.faultFree (s : State) : Prop := s.fault = none

/-- The core executes when it steps: no fault, not waiting, and PC inside memory (40_cycle_control.md R80, lines 1 to 3). -/
def State.runs (s : State) : Prop := s.fault = none ∧ s.status = .running ∧ s.pc.toNat ≤ lastFetch

/-- The next event is a Step: the agenda is empty or begins with one (60_exceptions.md R183; log 2). -/
def State.stepsNext (s : State) : Prop := s.pending = [] ∨ s.pending.head? = some .step

/-- The agenda after the next event. -/
def State.agendaAfter (s : State) : List Event := s.pending.tail

/-! Invariants -/

/-- Memory keeps its canonical form. -/
def State.memoryCanonical (s : State) : Prop := Memory.wf s.cfg.font s.mem

/-- Every live return address is one a CALL can push (40_cycle_control.md R83: always in 0x0002..0x1000). -/
def State.liveReturnsInRange (s : State) : Prop :=
  ∀ k, (h : k < s.sp.val) → 0x2 ≤ (s.stack[k]'(by have := s.sp.isLt; omega)).toNat ∧
    (s.stack[k]'(by have := s.sp.isLt; omega)).toNat ≤ 0x1000

/-- PC never exceeds the largest value a cycle can write (10_state.md R17). -/
def State.pcBounded (s : State) : Prop := s.pc.toNat ≤ 0x10FE

/-- The wait for a key and a latched fault never hold together (60_exceptions.md R186). -/
def State.notWaitingAndFaulted (s : State) : Prop := s.status = .running ∨ s.fault = none

/-- PC stays where a cycle can put it, with what that needs of the call stack. -/
def State.controlInv (s : State) : Prop := s.pcBounded ∧ s.liveReturnsInRange ∧ s.notWaitingAndFaulted

/-! Frames -/

/-- What an instruction may change besides PC; each part defaults to nothing. -/
structure Changes where
  regs   : Reg → Prop := fun _ => False
  bytes  : Nat → Prop := fun _ => False
  index  : Prop := False
  stack  : Prop := False
  delay  : Prop := False
  sound  : Prop := False
  pixels : Prop := False
  status : Prop := False
  latch  : Prop := False
  random : Prop := False

/-- Everything outside `c` and PC is as before: every register, every byte of memory, and every other element of the state.
No instruction changes the key latch, the configuration or the agenda (10_state.md R21, 00_scope.md R5). -/
def frame (c : Changes) (s t : State) : Prop :=
  (∀ r, ¬ c.regs r → t.getV r = s.getV r) ∧
  (∀ a, ¬ c.bytes a → t.readByte a = s.readByte a) ∧
  (¬ c.index → t.i = s.i) ∧
  (¬ c.stack → t.stack = s.stack ∧ t.sp = s.sp) ∧
  (¬ c.delay → t.dt = s.dt) ∧
  (¬ c.sound → t.st = s.st) ∧
  (¬ c.pixels → t.fb = s.fb) ∧
  (¬ c.status → t.status = s.status) ∧
  (¬ c.latch → t.fault = s.fault) ∧
  (¬ c.random → t.draw = s.draw) ∧
  t.keys = s.keys ∧ t.cfg = s.cfg ∧ t.pending = s.pending

/-- Byte `a` is one of the `n` bytes from `base`. -/
def inSpan (base n a : Nat) : Prop := base ≤ a ∧ a < base + n

/-- The sprite of a DRW in state `s` has a 1 bit that lands on column `px`, row `py`: row byte `r` (from `I + r`), bit
`7 - c` for sprite column `c`, at the origin reduced modulo the grid plus `(c, r)`; past the edge it is clipped away, or
wraps (43_display.md R141, R142). -/
def spriteCovers (s : State) (x y : Reg) (n : Nibble) (px : Fin fbW) (py : Fin fbH) : Prop :=
  ∃ r c, r < n.toNat ∧ c < 8 ∧ (s.readByte (s.i.toNat + r)).getLsbD (7 - c) = true ∧
    match s.cfg.drawEdge with
    | .clip => px.val = (s.getV x).toNat % 64 + c ∧ py.val = (s.getV y).toNat % 32 + r
    | .wrap => px.val = ((s.getV x).toNat % 64 + c) % 64 ∧ py.val = ((s.getV y).toNat % 32 + r) % 32

/-- The conditions under which an instruction is suppressed as a whole (20_memory.md R46): a data access would touch an
address above 0xFFF, or a glyph digit or key index is above 15. -/
def leavesRange (s : State) (i : Instr) : Prop :=
  (∃ x y n, i = .drwVxVyN x y n ∧ n.toNat ≥ 1 ∧ s.i.toNat + n.toNat - 1 > 0xFFF) ∨
  (∃ x, i = .ldBVx x ∧ s.i.toNat + 2 > 0xFFF) ∨
  (∃ x, (i = .ldMemVx x ∨ i = .ldVxMem x) ∧ s.i.toNat + x.toNat > 0xFFF) ∨
  (∃ x, (i = .ldFVx x ∨ i = .skpVx x ∨ i = .sknpVx x) ∧ (s.getV x).toNat > 15)

/-- The instruction is one of the six that write VF as a flag (10_state.md R13). -/
def writesFlag : Instr → Prop
  | .addVxVy _ _ | .subVxVy _ _ | .subnVxVy _ _ | .shrVxVy _ _ | .shlVxVy _ _ | .drwVxVyN _ _ _ => True
  | _ => False

/-- The instruction names VF as an ordinary destination (10_state.md R14): X = F in an instruction that writes V[X], or a
block load up to VF. -/
def namesVF : Instr → Prop
  | .ldVxNN x _ | .addVxNN x _ | .ldVxVy x _ | .orVxVy x _ | .andVxVy x _ | .xorVxVy x _ | .rndVxNN x _ | .ldVxDT x
  | .ldVxMem x => x = vF
  | _ => False

/-- The fatal fault an instruction raises in this state, if any (60_exceptions.md R171). -/
def raises (s : State) (i : Instr) (f : Fault) : Prop :=
  (∃ nnn, i = .call nnn ∧ s.sp.val = 16 ∧ f = .stackOverflow) ∨ (i = .ret ∧ s.sp.val = 0 ∧ f = .stackUnderflow)

/-- PC after an instruction that started with `pc0 = s.pc`, as the table of 40_cycle_control.md R91 gives it. -/
def pcAfter (s : State) : Instr → Nat
  | .jp nnn => nnn.toNat
  | .call nnn => if s.sp.val = 16 then s.pc.toNat else nnn.toNat
  | .jpV0NNN nnn =>
    match s.cfg.jumpOffsetReg with
    | .v0 => nnn.toNat + (s.getV 0#4).toNat
    | .vx => nnn.toNat + (s.getV (BitVec.ofNat 4 (nnn.toNat / 256))).toNat
  | .ret => if h : s.sp.val = 0 then s.pc.toNat else (s.stack[s.sp.val - 1]'(by have := s.sp.isLt; omega)).toNat
  | .seVxNN x nn => if s.getV x = nn then s.pc.toNat + 4 else s.pc.toNat + 2
  | .sneVxNN x nn => if s.getV x = nn then s.pc.toNat + 2 else s.pc.toNat + 4
  | .seVxVy x y => if s.getV x = s.getV y then s.pc.toNat + 4 else s.pc.toNat + 2
  | .sneVxVy x y => if s.getV x = s.getV y then s.pc.toNat + 2 else s.pc.toNat + 4
  | .skpVx x => if s.keys[(s.getV x).toNat]? = some true then s.pc.toNat + 4 else s.pc.toNat + 2
  | .sknpVx x => if s.keys[(s.getV x).toNat]? = some false then s.pc.toNat + 4 else s.pc.toNat + 2
  | _ => s.pc.toNat + 2

end Sys2Proof.Machine
end

