-- ==== Sys2Proof/Certificates/Slice0/Obligations.lean ====
section
/-! DEFINITION. The statements for the provers, each a Prop about the machine. `frame` says what an instruction leaves
unchanged: every register, every byte of memory and every other element of the state outside the named changes; PC is given
beside it. A docstring says which rule of spec/ a statement formalises; where a clause rests on a decision of the spec or a
choice of the model, it names the decision and the log entry. -/

open Sys2Proof Sys2Proof.Machine

/-! Encoding -/

/-- Decode and encode agree: the decoder reads every instruction back from its encoding, every operand at every value
(30_encoding.md R64; the patterns are D3, log 9). -/
def Obligations.EncodedInstructionsDecodeBack : Prop :=
  ∀ i : Instr, decode (encode i) = .instr i

/-- Each known word has one meaning and no bit of it is dropped: encoding what was decoded gives the word back
(30_encoding.md R64, R66; D3, D4, log 9). -/
def Obligations.DecodedWordsEncodeBack : Prop :=
  ∀ (w : Word) (i : Instr), decode w = .instr i → encode i = w

/-- The decoder selects the unique row of the table with `w & mask = match` (30_encoding.md R64, R66; D3, D4, log 9): an
instruction it answers lies in its row, a word of some row is an instruction, and the rows are disjoint. -/
def Obligations.DecoderSelectsTheUniqueRow : Prop :=
  (∀ (w : Word) (i : Instr), decode w = .instr i → i.matchesWord w = true) ∧
  (∀ (w : Word) (i : Instr), i.matchesWord w = true → ∃ j, decode w = .instr j ∧ j.row = i.row) ∧
  (∀ (w : Word) (i j : Instr), i.matchesWord w = true → j.matchesWord w = true → i.row = j.row)

/-- The unknown words are those of the table of 30_encoding.md R69, family by family (its counts are not stated; D4, log
9). -/
def Obligations.UnknownWordsAreTheListedOnes : Prop :=
  ∀ w : Word, decode w = .unknown w ↔ isUnknownWord w = true

/-- A few words written out from the encoding table decode to the instructions they stand for (95_test_vectors.md, T-DEC; D3,
D4, log 9). -/
def Obligations.SampleWordsDecode : Prop :=
  decode 0x00E0#16 = .instr .cls ∧ decode 0x2FFF#16 = .instr (.call 0xFFF#12) ∧
  decode 0x3A7F#16 = .instr (.seVxNN 0xA#4 0x7F#8) ∧ decode 0x8ABE#16 = .instr (.shlVxVy 0xA#4 0xB#4) ∧
  decode 0xB234#16 = .instr (.jpV0NNN 0x234#12) ∧ decode 0xD12F#16 = .instr (.drwVxVyN 0x1#4 0x2#4 0xF#4) ∧
  decode 0xE19E#16 = .instr (.skpVx 0x1#4) ∧ decode 0xFF65#16 = .instr (.ldVxMem 0xF#4) ∧
  decode 0x5AB1#16 = .unknown 0x5AB1#16 ∧ decode 0x0123#16 = .unknown 0x0123#16

/-- Fetch is big-endian at any alignment (20_memory.md R47, R49): the byte at PC is the high half (D2, log 10), and an odd PC
fetches like an even one (D7, log 13). -/
def Obligations.FetchIsBigEndian : Prop :=
  ∀ s : State, s.fetchWord.toNat = 256 * (s.readByte s.pc.toNat).toNat + (s.readByte (s.pc.toNat + 1)).toNat

/-! The cycle -/

/-- A step runs the decoded instruction: a running core without a fault, PC inside memory and a Step next, steps by exec of
the instruction its two bytes decode to; the agenda only loses the Step (40_cycle_control.md R80; log 2). -/
def Obligations.StepRunsTheFetchedInstruction : Prop :=
  ∀ (s : State) (i : Instr), s.runs → s.stepsNext →
    decodeBytes (s.readByte s.pc.toNat) (s.readByte (s.pc.toNat + 1)) = .instr i →
    step s = exec i { s with pending := s.pending.tail }

/-- An unknown word is no fault: the step succeeds, changes PC by the normal advance and nothing else, and reports the word
and its address (30_encoding.md R68; the diagnostic's content is D22, log 26). -/
def Obligations.UnknownWordOnlyAdvances : Prop :=
  ∀ (s : State) (w : Word), s.runs → s.stepsNext →
    decodeBytes (s.readByte s.pc.toNat) (s.readByte (s.pc.toNat + 1)) = .unknown w →
    step s = .next { s with pc := s.pc + 2#16, pending := s.pending.tail } ∧
    output .step s = .stepped .success (.unknownOpcode w s.pc)

/-- A fetch outside memory latches PcOutOfRange, changes nothing else and returns the fault (40_cycle_control.md R81; D6, log
12), without a diagnostic (60_exceptions.md R176; D22, log 26). -/
def Obligations.FetchOutsideMemoryLatches : Prop :=
  ∀ s : State, s.fault = none → s.status = .running → s.pc.toNat > 0x0FFE →
    cycle s = .next { s with fault := some .pcOutOfRange } ∧
    output .step s = .stepped (.faulted .pcOutOfRange) .noDiag

/-- A core that cannot run steps in place (40_cycle_control.md R80 lines 1 and 2, 10_state.md R25, 44_keypad_timers_random.md
R155): a latched fault is returned again before anything else is looked at, a waiting core idles. That the model answers a
latched fault with Outcome.fault is its choice (log 4). -/
def Obligations.FaultedOrWaitingCoreStepsInPlace : Prop :=
  (∀ (s : State) (f : Fault), s.fault = some f →
    cycle s = .fault f ∧ output .step s = .stepped (.faulted f) .noDiag) ∧
  (∀ (s : State) (x : Reg), s.fault = none → s.status = .waitingForKey x →
    cycle s = .next s ∧ output .step s = .stepped .success .idle)

/-- The complete list of faults (60_exceptions.md R171, R173; the third is D6, log 12): a core without a fault reports one
exactly when it runs with PC > 0x0FFE, CALL with SP = 16 or RET with SP = 0. -/
def Obligations.FaultsAreExactlyTheListedOnes : Prop :=
  ∀ (s : State) (f : Fault), s.fault = none →
    (stepResult s = .faulted f ↔
      (s.status = .running ∧ s.pc.toNat > 0x0FFE ∧ f = .pcOutOfRange) ∨
      (s.runs ∧ ∃ i, s.fetched = .instr i ∧ raises s i f))

/-- The host reads a fault's address and word through the debug snapshot (60_exceptions.md R170, R172, R189; D8, log 14; MEM in
the snapshot is log 38): after the cycle that raises a fault, the snapshot's PC is the faulting address, and its word there is the
faulting word, or none for a fetch outside memory. -/
def Obligations.SnapshotShowsTheFaultingWord : Prop :=
  ∀ (s t : State) (f : Fault), s.fault = none → cycle s = .next t → t.fault = some f →
    t.debugView.pc = s.pc ∧
    (f ≠ .pcOutOfRange → t.debugView.wordAtPc = some s.fetchWord) ∧
    (f = .pcOutOfRange → t.debugView.wordAtPc = none)

/-- An out-of-range access or table lookup suppresses the whole instruction: nothing changes but the normal advance of PC
(20_memory.md R46; the policy is D5, log 11). -/
def Obligations.SuppressedInstructionOnlyAdvances : Prop :=
  ∀ (s : State) (i : Instr), leavesRange s i → exec i s = .next { s with pc := s.pc + 2#16 }

/-- A step reports AccessSuppressed, with the word and its address, exactly when it suppresses its instruction
(60_exceptions.md R176; D22, log 26). -/
def Obligations.SuppressionIsReported : Prop :=
  ∀ (s : State) (i : Instr), s.runs → s.fetched = .instr i →
    ((leavesRange s i → diagnostic s = .accessSuppressed s.fetchWord s.pc) ∧
     (¬ leavesRange s i → diagnostic s = .noDiag))

/-! Control transfer -/

/-- JP NNN (40_cycle_control.md R82). A jump to its own address leaves the whole state unchanged. -/
def Obligations.JumpSetsProgramCounter : Prop :=
  ∀ (nnn : Addr) (s : State), ∃ t, exec (.jp nnn) s = .next t ∧
    t.pc.toNat = nnn.toNat ∧ frame {} s t ∧ (s.pc.toNat = nnn.toNat → t = s)

/-- JP V0,NNN (40_cycle_control.md R92): the sum is not reduced (D6, log 12), and the offset register is V0 or, under
JUMP_OFFSET_REG = VX, the register of the top nibble of NNN (D29, log 31). -/
def Obligations.JumpWithOffsetAddsTheRegister : Prop :=
  ∀ (nnn : Addr) (s : State), ∃ t, exec (.jpV0NNN nnn) s = .next t ∧
    (s.cfg.jumpOffsetReg = .v0 → t.pc.toNat = nnn.toNat + (s.getV 0x0#4).toNat) ∧
    (s.cfg.jumpOffsetReg = .vx → t.pc.toNat = nnn.toNat + (s.getV (BitVec.ofNat 4 (nnn.toNat / 256))).toNat) ∧
    frame {} s t

/-- CALL NNN (40_cycle_control.md R84): with room it pushes the advanced PC and jumps; with SP = 16 it latches StackOverflow
and changes nothing else (the precise fault is D8, log 14). -/
def Obligations.CallPushesOrOverflows : Prop :=
  ∀ (nnn : Addr) (s : State),
    (s.sp.val < 16 → ∃ t, exec (.call nnn) s = .next t ∧
      t.pc.toNat = nnn.toNat ∧ t.sp.val = s.sp.val + 1 ∧ t.stack[s.sp.val]? = some (s.pc + 2#16) ∧
      (∀ k, k ≠ s.sp.val → t.stack[k]? = s.stack[k]?) ∧ frame { stack := True } s t) ∧
    (s.sp.val = 16 → exec (.call nnn) s = .next { s with fault := some .stackOverflow })

/-- RET (40_cycle_control.md R83): with a live entry it pops the newest into PC and leaves every cell as it was (D17, log 21);
with SP = 0 it latches StackUnderflow and changes nothing else (D8, log 14). -/
def Obligations.ReturnPopsOrUnderflows : Prop :=
  ∀ s : State,
    (0 < s.sp.val → ∃ t, exec .ret s = .next t ∧
      some t.pc = s.stack[s.sp.val - 1]? ∧ t.sp.val = s.sp.val - 1 ∧ t.stack = s.stack ∧ frame { stack := True } s t) ∧
    (s.sp.val = 0 → exec .ret s = .next { s with fault := some .stackUnderflow })

/-- CALL then RET comes back to the instruction after the CALL, with the stack as deep as before and every live entry
unchanged (95_test_vectors.md E3, 40_cycle_control.md R83, R84). -/
def Obligations.CallThenReturnComesBack : Prop :=
  ∀ (nnn : Addr) (s : State), s.sp.val < 16 → ∃ t u, exec (.call nnn) s = .next t ∧ exec .ret t = .next u ∧
    u.pc = s.pc + 2#16 ∧ u.sp = s.sp ∧ (∀ k, k < s.sp.val → u.stack[k]? = s.stack[k]?) ∧
    frame { stack := True } s u

/-- SE Vx,NN and SNE Vx,NN (40_cycle_control.md R85, R86, R90). -/
def Obligations.ImmediateSkipsCompareTheRegister : Prop :=
  ∀ (x : Reg) (nn : Byte) (s : State),
    (∃ t, exec (.seVxNN x nn) s = .next t ∧
      t.pc = (if s.getV x = nn then s.pc + 4#16 else s.pc + 2#16) ∧ frame {} s t) ∧
    (∃ t, exec (.sneVxNN x nn) s = .next t ∧
      t.pc = (if s.getV x = nn then s.pc + 2#16 else s.pc + 4#16) ∧ frame {} s t)

/-- SE Vx,Vy and SNE Vx,Vy (40_cycle_control.md R87, R88, R90); X = Y always, respectively never, skips. -/
def Obligations.RegisterSkipsCompareTheRegisters : Prop :=
  ∀ (x y : Reg) (s : State),
    (∃ t, exec (.seVxVy x y) s = .next t ∧
      t.pc = (if s.getV x = s.getV y then s.pc + 4#16 else s.pc + 2#16) ∧ frame {} s t) ∧
    (∃ t, exec (.sneVxVy x y) s = .next t ∧
      t.pc = (if s.getV x = s.getV y then s.pc + 2#16 else s.pc + 4#16) ∧ frame {} s t)

/-! Immediate loads and the ALU -/

/-- LD Vx,NN and LD Vx,Vy (41_alu.md R100, R102); VF changes only as the named destination (D18, log 22). -/
def Obligations.LoadsWriteTheirDestination : Prop :=
  ∀ (x y : Reg) (nn : Byte) (s : State),
    (∃ t, exec (.ldVxNN x nn) s = .next t ∧ t.getV x = nn ∧ t.pc = s.pc + 2#16 ∧
      frame { regs := fun r => r = x } s t) ∧
    (∃ t, exec (.ldVxVy x y) s = .next t ∧ t.getV x = s.getV y ∧ t.pc = s.pc + 2#16 ∧
      frame { regs := fun r => r = x } s t)

/-- ADD Vx,NN (41_alu.md R101): wraps modulo 256 and records no carry anywhere. -/
def Obligations.AddImmediateWrapsWithoutFlag : Prop :=
  ∀ (x : Reg) (nn : Byte) (s : State), ∃ t, exec (.addVxNN x nn) s = .next t ∧
    (t.getV x).toNat = ((s.getV x).toNat + nn.toNat) % 256 ∧ t.pc = s.pc + 2#16 ∧
    frame { regs := fun r => r = x } s t

/-- OR, AND, XOR (41_alu.md R103, R104, R105), bit by bit; VF is left unchanged unless it is the destination (D18,
log 22). -/
def Obligations.LogicOperationsAreBitwise : Prop :=
  ∀ (x y : Reg) (s : State),
    (∃ t, exec (.orVxVy x y) s = .next t ∧ t.pc = s.pc + 2#16 ∧ frame { regs := fun r => r = x } s t ∧
      ∀ k, (t.getV x).getLsbD k = ((s.getV x).getLsbD k || (s.getV y).getLsbD k)) ∧
    (∃ t, exec (.andVxVy x y) s = .next t ∧ t.pc = s.pc + 2#16 ∧ frame { regs := fun r => r = x } s t ∧
      ∀ k, (t.getV x).getLsbD k = ((s.getV x).getLsbD k && (s.getV y).getLsbD k)) ∧
    (∃ t, exec (.xorVxVy x y) s = .next t ∧ t.pc = s.pc + 2#16 ∧ frame { regs := fun r => r = x } s t ∧
      ∀ k, (t.getV x).getLsbD k = ((s.getV x).getLsbD k ^^ (s.getV y).getLsbD k))

/-- ADD Vx,Vy (41_alu.md R106): the sum modulo 256, VF the carry, written last, so that with X = F the carry is what VF
holds (D16, log 20). -/
def Obligations.AddRegistersSetsCarry : Prop :=
  ∀ (x y : Reg) (s : State), ∃ t, exec (.addVxVy x y) s = .next t ∧
    (x ≠ vF → (t.getV x).toNat = ((s.getV x).toNat + (s.getV y).toNat) % 256) ∧
    (t.getV vF).toNat = (if (s.getV x).toNat + (s.getV y).toNat > 255 then 1 else 0) ∧
    t.pc = s.pc + 2#16 ∧ frame { regs := fun r => r = x ∨ r = vF } s t

/-- SUB and SUBN (41_alu.md R107, R109): the difference modulo 256, VF no-borrow, written last (D16, log 20);
equal operands give VF = 1. -/
def Obligations.SubtractionsSetNoBorrow : Prop :=
  ∀ (x y : Reg) (s : State),
    (∃ t, exec (.subVxVy x y) s = .next t ∧
      (x ≠ vF → ((t.getV x).toNat : Int) = ((s.getV x).toNat - (s.getV y).toNat : Int) % 256) ∧
      (t.getV vF).toNat = (if (s.getV x).toNat ≥ (s.getV y).toNat then 1 else 0) ∧
      t.pc = s.pc + 2#16 ∧ frame { regs := fun r => r = x ∨ r = vF } s t) ∧
    (∃ t, exec (.subnVxVy x y) s = .next t ∧
      (x ≠ vF → ((t.getV x).toNat : Int) = ((s.getV y).toNat - (s.getV x).toNat : Int) % 256) ∧
      (t.getV vF).toNat = (if (s.getV y).toNat ≥ (s.getV x).toNat then 1 else 0) ∧
      t.pc = s.pc + 2#16 ∧ frame { regs := fun r => r = x ∨ r = vF } s t)

/-- SHR and SHL (41_alu.md R108, R110): one bit position, logical; VF is the bit shifted out, written last (D16, log
20). The source is Vy, or Vx under SHIFT_SRC = VX (D30, log 31). -/
def Obligations.ShiftsMoveOneBitIntoVF : Prop :=
  ∀ (x y : Reg) (s : State) (src : Byte),
    src = (if s.cfg.shiftSrc = .vy then s.getV y else s.getV x) →
    (∃ t, exec (.shrVxVy x y) s = .next t ∧
      (x ≠ vF → (t.getV x).toNat = src.toNat / 2) ∧ (t.getV vF).toNat = src.toNat % 2 ∧
      t.pc = s.pc + 2#16 ∧ frame { regs := fun r => r = x ∨ r = vF } s t) ∧
    (∃ t, exec (.shlVxVy x y) s = .next t ∧
      (x ≠ vF → (t.getV x).toNat = 2 * src.toNat % 256) ∧ (t.getV vF).toNat = src.toNat / 128 ∧
      t.pc = s.pc + 2#16 ∧ frame { regs := fun r => r = x ∨ r = vF } s t)

/-! Index register and memory -/

/-- LD I,NNN (42_index_memory.md R120). -/
def Obligations.LoadIndexSetsI : Prop :=
  ∀ (nnn : Addr) (s : State), ∃ t, exec (.ldINNN nnn) s = .next t ∧
    t.i.toNat = nnn.toNat ∧ t.pc = s.pc + 2#16 ∧ frame { index := True } s t

/-- ADD I,Vx (42_index_memory.md R121): no flag, and the sum wraps at 65536 (D12, log 17). -/
def Obligations.AddIndexWrapsWithoutFlag : Prop :=
  ∀ (x : Reg) (s : State), ∃ t, exec (.addIVx x) s = .next t ∧
    t.i.toNat = (s.i.toNat + (s.getV x).toNat) % 65536 ∧ t.pc = s.pc + 2#16 ∧ frame { index := True } s t

/-- LD F,Vx for a digit (42_index_memory.md R122): the address of its 5-byte glyph (D9, log 15). Above 15 see
SuppressedInstructionOnlyAdvances. -/
def Obligations.FontLookupGivesGlyphAddress : Prop :=
  ∀ (x : Reg) (s : State), (s.getV x).toNat ≤ 15 → ∃ t, exec (.ldFVx x) s = .next t ∧
    t.i.toNat = 0x50 + 5 * (s.getV x).toNat ∧ t.pc = s.pc + 2#16 ∧ frame { index := True } s t

/-- LD B,Vx with its span inside memory (42_index_memory.md R124): the three decimal digits, most significant first; no other
byte changes. Outside memory see SuppressedInstructionOnlyAdvances. -/
def Obligations.BcdStoreWritesThreeDigits : Prop :=
  ∀ (x : Reg) (s : State), s.i.toNat + 2 ≤ 0xFFF → ∃ t, exec (.ldBVx x) s = .next t ∧
    (t.readByte s.i.toNat).toNat = (s.getV x).toNat / 100 ∧
    (t.readByte (s.i.toNat + 1)).toNat = (s.getV x).toNat / 10 % 10 ∧
    (t.readByte (s.i.toNat + 2)).toNat = (s.getV x).toNat % 10 ∧
    t.pc = s.pc + 2#16 ∧ frame { bytes := inSpan s.i.toNat 3 } s t

/-- LD [I],Vx with its span inside memory (42_index_memory.md R125): V0..VX at I..I+X, no other byte and no register changes;
I stays, or moves to I + X + 1 modulo 65536 under INDEX_INCREMENT = X_PLUS_1 (D11, log 16). -/
def Obligations.BlockStoreWritesTheRegisters : Prop :=
  ∀ (x : Reg) (s : State), s.i.toNat + x.toNat ≤ 0xFFF → ∃ t, exec (.ldMemVx x) s = .next t ∧
    (∀ r : Reg, r.toNat ≤ x.toNat → t.readByte (s.i.toNat + r.toNat) = s.getV r) ∧
    (s.cfg.indexIncrement = .none → t.i = s.i) ∧
    (s.cfg.indexIncrement = .xPlus1 → t.i.toNat = (s.i.toNat + x.toNat + 1) % 65536) ∧
    t.pc = s.pc + 2#16 ∧ frame { bytes := inSpan s.i.toNat (x.toNat + 1), index := True } s t

/-- LD Vx,[I] with its span inside memory (42_index_memory.md R126): V0..VX from I..I+X, no register above VX and no byte
changes; I as for the block store (D11, log 16). -/
def Obligations.BlockLoadReadsTheRegisters : Prop :=
  ∀ (x : Reg) (s : State), s.i.toNat + x.toNat ≤ 0xFFF → ∃ t, exec (.ldVxMem x) s = .next t ∧
    (∀ r : Reg, r.toNat ≤ x.toNat → t.getV r = s.readByte (s.i.toNat + r.toNat)) ∧
    (s.cfg.indexIncrement = .none → t.i = s.i) ∧
    (s.cfg.indexIncrement = .xPlus1 → t.i.toNat = (s.i.toNat + x.toNat + 1) % 65536) ∧
    t.pc = s.pc + 2#16 ∧ frame { regs := fun r => r.toNat ≤ x.toNat, index := True } s t

/-- A block load from where a block store wrote gives the stored registers back, whatever else has changed in between
(20_memory.md R48, R50, 42_index_memory.md R125, R126). It holds under both index options. -/
def Obligations.BlockLoadUndoesBlockStore : Prop :=
  ∀ (x : Reg) (s : State), s.i.toNat + x.toNat ≤ 0xFFF → ∃ t, exec (.ldMemVx x) s = .next t ∧
    ∀ u : State, u.i = s.i → (∀ a, u.readByte a = t.readByte a) →
      ∃ w, exec (.ldVxMem x) u = .next w ∧ ∀ r : Reg, r.toNat ≤ x.toNat → w.getV r = s.getV r

/-- A store is what the next fetch reads (20_memory.md R53): a block store over the next instruction's two bytes makes the
next word V0 ++ V1 (D2, log 10). -/
def Obligations.StoresReachTheNextFetch : Prop :=
  ∀ (x : Reg) (s : State), 1 ≤ x.toNat → s.i = s.pc + 2#16 → s.i.toNat + x.toNat ≤ 0xFFF →
    ∃ t, exec (.ldMemVx x) s = .next t ∧
      t.fetchWord.toNat = 256 * (s.getV 0x0#4).toNat + (s.getV 0x1#4).toNat

/-! Display -/

/-- CLS (43_display.md R140): every pixel off, VF and everything else unchanged. -/
def Obligations.ClearTurnsEveryPixelOff : Prop :=
  ∀ s : State, ∃ t, exec .cls s = .next t ∧
    (∀ (px : Fin fbW) (py : Fin fbH), t.fb.pixel px py = false) ∧ t.pc = s.pc + 2#16 ∧ frame { pixels := True } s t

/-- DRW with its span inside memory, or N = 0 (43_display.md R141, R142; D19, D24, D28, log 23, 27, 31): exactly the pixels
the sprite covers are flipped, and VF is 1 iff one of them was on. Both edges. Outside memory see
SuppressedInstructionOnlyAdvances. -/
def Obligations.DrawXorsTheSprite : Prop :=
  ∀ (x y : Reg) (n : Nibble) (s : State), (n.toNat ≥ 1 → s.i.toNat + n.toNat - 1 ≤ 0xFFF) →
    ∃ t, exec (.drwVxVyN x y n) s = .next t ∧
      (∀ (px : Fin fbW) (py : Fin fbH),
        (spriteCovers s x y n px py → t.fb.pixel px py = !s.fb.pixel px py) ∧
        (¬ spriteCovers s x y n px py → t.fb.pixel px py = s.fb.pixel px py)) ∧
      ((∃ px py, s.fb.pixel px py = true ∧ spriteCovers s x y n px py) → t.getV vF = 1#8) ∧
      ((¬ ∃ px py, s.fb.pixel px py = true ∧ spriteCovers s x y n px py) → t.getV vF = 0#8) ∧
      t.pc = s.pc + 2#16 ∧ frame { pixels := True, regs := fun r => r = vF } s t

/-- Drawing the same sprite twice at the same place restores the screen (95_test_vectors.md E4 for every sprite, place, edge
and screen). X and Y must not be VF, which the first draw overwrites. -/
def Obligations.DrawTwiceRestoresTheScreen : Prop :=
  ∀ (x y : Reg) (n : Nibble) (s : State), x ≠ vF → y ≠ vF → (n.toNat ≥ 1 → s.i.toNat + n.toNat - 1 ≤ 0xFFF) →
    ∃ t u, exec (.drwVxVyN x y n) s = .next t ∧ exec (.drwVxVyN x y n) t = .next u ∧ u.fb = s.fb

/-! Random, keypad, timers -/

/-- RND Vx,NN (44_keypad_timers_random.md R151): the cycle's random byte masked by NN, so bits that are 0 in NN are 0 in the
result whatever the byte is. The byte is a free value, `Config.rnd` at the draw counter (D15, log 3). -/
def Obligations.RandomIsMasked : Prop :=
  ∀ (x : Reg) (nn : Byte) (s : State), ∃ t, exec (.rndVxNN x nn) s = .next t ∧
    t.getV x = Config.rnd s.draw &&& nn ∧ (∀ k, nn.getLsbD k = false → (t.getV x).getLsbD k = false) ∧
    t.draw = s.draw + 1 ∧ t.pc = s.pc + 2#16 ∧ frame { regs := fun r => r = x, random := True } s t

/-- SKP and SKNP for a key (44_keypad_timers_random.md R152, R153). Above 15 see SuppressedInstructionOnlyAdvances. -/
def Obligations.KeySkipsReadTheLatch : Prop :=
  ∀ (x : Reg) (s : State) (pressed : Bool), s.keys[(s.getV x).toNat]? = some pressed →
    (∃ t, exec (.skpVx x) s = .next t ∧
      t.pc = (if pressed = true then s.pc + 4#16 else s.pc + 2#16) ∧ frame {} s t) ∧
    (∃ t, exec (.sknpVx x) s = .next t ∧
      t.pc = (if pressed = true then s.pc + 2#16 else s.pc + 4#16) ∧ frame {} s t)

/-- LD Vx,DT, LD DT,Vx and LD ST,Vx (44_keypad_timers_random.md R154, R156, R157). -/
def Obligations.TimerTransfersMoveTheByte : Prop :=
  ∀ (x : Reg) (s : State),
    (∃ t, exec (.ldVxDT x) s = .next t ∧ t.getV x = s.dt ∧ t.pc = s.pc + 2#16 ∧
      frame { regs := fun r => r = x } s t) ∧
    (∃ t, exec (.ldDTVx x) s = .next t ∧ t.dt = s.getV x ∧ t.pc = s.pc + 2#16 ∧ frame { delay := True } s t) ∧
    (∃ t, exec (.ldSTVx x) s = .next t ∧ t.st = s.getV x ∧ t.pc = s.pc + 2#16 ∧ frame { sound := True } s t)

/-- LD Vx,K (44_keypad_timers_random.md R155): the instruction stream is suspended with PC already advanced, and V[X] is not
changed by the cycle (D13, log 18). -/
def Obligations.WaitForKeySuspends : Prop :=
  ∀ (x : Reg) (s : State), ∃ t, exec (.ldVxK x) s = .next t ∧
    t.status = .waitingForKey x ∧ t.pc = s.pc + 2#16 ∧ frame { status := True } s t

/-! The other events -/

/-- KeySet (60_exceptions.md R186; D13, D25, log 18, 28): it sets or clears one flag; a flag that goes from 0 to 1 while the
core waits gives the key to the waiting register and ends the wait; nothing else changes; an index above 15 is ignored. -/
def Obligations.KeySetLatchesAndWakes : Prop :=
  ∀ (s : State) (k : Nat) (pressed : Bool),
    (k > 15 → fire (.keySet k pressed) s = .next s) ∧
    (k ≤ 15 → ∃ t, fire (.keySet k pressed) s = .next t ∧
      t.keys[k]? = some pressed ∧ (∀ j, j ≠ k → t.keys[j]? = s.keys[j]?) ∧
      t = { s with keys := t.keys, v := t.v, status := t.status } ∧
      (∀ x, pressed = true → s.keys[k]? = some false → s.status = .waitingForKey x →
        t.status = .running ∧ (t.getV x).toNat = k ∧ ∀ r, r ≠ x → t.getV r = s.getV r) ∧
      (pressed = false ∨ s.keys[k]? = some true ∨ s.status = .running → t.v = s.v ∧ t.status = s.status))

/-- Tick (60_exceptions.md R180; D27, log 30): both timers decrement toward zero, never below, in every state; nothing else
changes. -/
def Obligations.TickCountsBothTimersDown : Prop :=
  ∀ s : State, ∃ t, fire .tick s = .next t ∧
    t.dt.toNat = s.dt.toNat - 1 ∧ t.st.toNat = s.st.toNat - 1 ∧ t = { s with dt := t.dt, st := t.st }

/-- After n Ticks and nothing else the timers are n lower, or zero (95_test_vectors.md E8, 60_exceptions.md R181): 60 Ticks
take a delay timer of 60 to 0 (D14, log 19). The Ticks come from the agenda (log 2). -/
def Obligations.TicksRunTheTimersDown : Prop :=
  ∀ (n : Nat) (s : State), ∃ t,
    Host.Core.run Sys2Proof.core n { s with pending := List.replicate n Event.tick } = .next t ∧
    t.dt.toNat = s.dt.toNat - n ∧ t.st.toNat = s.st.toNat - n ∧ t = { s with dt := t.dt, st := t.st, pending := [] }

/-- Load (60_exceptions.md R184; D20, log 24): an image that fits is copied verbatim to 0x200 and nothing else is altered; a
longer one is a size overflow and changes nothing. -/
def Obligations.LoadCopiesTheImage : Prop :=
  ∀ (s : State) (bytes : List Byte),
    (bytes.length ≤ 3584 → output (.load bytes) s = .loaded .ok ∧ ∃ t, fire (.load bytes) s = .next t ∧
      (∀ k, k < bytes.length → some (t.readByte (0x200 + k)) = bytes[k]?) ∧
      (∀ a, ¬ inSpan 0x200 bytes.length a → t.readByte a = s.readByte a) ∧ t = { s with mem := t.mem }) ∧
    (bytes.length > 3584 → output (.load bytes) s = .loaded .sizeOverflow ∧ fire (.load bytes) s = .next s)

/-- The snapshots return copies and change nothing (60_exceptions.md R188, R189; that the debug snapshot shows MEM too is log
38); sound_active is 1 exactly while ST is not 0 (60_exceptions.md R182; D21, log 25). -/
def Obligations.SnapshotsAndSoundAreReads : Prop :=
  ∀ s : State, fire .framebufferSnapshot s = .next s ∧ output .framebufferSnapshot s = .framebuffer s.fb ∧
    fire .debugSnapshot s = .next s ∧
    output .debugSnapshot s = .debug
      { pc := s.pc, i := s.i, v := s.v, stack := s.stack, sp := s.sp,
        mem := Vector.ofFn (fun a : Fin 4096 => s.readByte a.val) } ∧
    (s.soundActive = true ↔ s.st.toNat ≠ 0)

/-- The reset state (10_state.md R28): font loaded, PC = 0x0200, all else zero, no wait, no fault. -/
def Obligations.ResetStateIsTheListedOne : Prop :=
  (∀ j, (h : j < 80) → State.reset.readByte (0x050 + j) = State.reset.cfg.font[j]) ∧
  (∀ a, a < 0x050 ∨ 0x0A0 ≤ a → State.reset.readByte a = 0#8) ∧
  (∀ r, State.reset.getV r = 0#8) ∧ State.reset.i = 0#16 ∧ State.reset.pc = 0x0200#16 ∧ State.reset.sp.val = 0 ∧
  (∀ k, k < 16 → State.reset.stack[k]? = some 0#16) ∧ State.reset.dt = 0#8 ∧ State.reset.st = 0#8 ∧
  (∀ px py, State.reset.fb.pixel px py = false) ∧ (∀ k, k < 16 → State.reset.keys[k]? = some false) ∧
  State.reset.status = .running ∧ State.reset.fault = none

/-- The Reset event (70_reset_and_hazards.md R200, R202; D26, log 29): from any state it gives the reset values of R28 with
the same configuration; that the agenda and the draw counter go on is the model's choice (log 2, 3). -/
def Obligations.ResetEventRecreatesTheState : Prop :=
  ∀ s : State, ∃ t, fire .reset s = .next t ∧
    (∀ j, (h : j < 80) → t.readByte (0x050 + j) = s.cfg.font[j]) ∧
    (∀ a, a < 0x050 ∨ 0x0A0 ≤ a → t.readByte a = 0#8) ∧
    t = { State.reset with cfg := s.cfg, pending := s.pending, draw := s.draw }

/-! Invariants -/

/-- Every step keeps memory in its canonical form. -/
def Obligations.StepKeepsMemoryCanonical : Prop :=
  ∀ s t : State, s.memoryCanonical → step s = .next t → t.memoryCanonical

/-- Every step keeps PC within the largest value a cycle can write (10_state.md R17; D6, log 12), the live return addresses in
0x0002..0x1000 (40_cycle_control.md R83), and the wait for a key apart from a latched fault (60_exceptions.md R186). -/
def Obligations.StepKeepsControlInv : Prop :=
  ∀ s t : State, s.controlInv → step s = .next t → t.controlInv

/-- The invariants hold at reset, and the default configuration is well formed (20_memory.md R44; D10, log 8): FONT begins with
glyph 0 and bits 3..0 of every byte of it are zero. -/
def Obligations.ResetSatisfiesTheInvariants : Prop :=
  State.reset.memoryCanonical ∧ State.reset.controlInv ∧ State.reset.cfg.wf = true ∧
  (∀ j, (h : j < 80) → (State.reset.cfg.font[j]).toNat % 16 = 0)

/-! Whole-machine rules -/

/-- Only Reset leaves a fault (10_state.md R25, 60_exceptions.md R174, R175; D8, D27, log 14, 30): any other step keeps it
latched, and of all that a cycle writes it changes memory only as a Load and the timers only as a Tick. -/
def Obligations.OnlyResetLeavesAFault : Prop :=
  ∀ (s t : State) (f : Fault), s.notWaitingAndFaulted → s.fault = some f → s.pending.head? ≠ some .reset →
    step s = .next t →
    t.fault = some f ∧ t.pc = s.pc ∧ t.v = s.v ∧ t.i = s.i ∧ t.sp = s.sp ∧ t.stack = s.stack ∧ t.fb = s.fb ∧
      t.status = s.status ∧
      (t.mem = s.mem ∨ ∃ bytes, s.pending.head? = some (.load bytes)) ∧
      ((t.dt = s.dt ∧ t.st = s.st) ∨ s.pending.head? = some .tick)

/-- No instruction decrements a timer (44_keypad_timers_random.md R158): a step leaves each timer unchanged unless it is a
Tick, which counts it down, a Reset, or the instruction that sets it. -/
def Obligations.OnlyTickCountsATimerDown : Prop :=
  ∀ s t : State, step s = .next t →
    (t.dt = s.dt ∨ (s.pending.head? = some .tick ∧ t.dt.toNat = s.dt.toNat - 1) ∨ s.pending.head? = some .reset ∨
      ∃ x, s.runs ∧ s.stepsNext ∧ s.fetched = .instr (.ldDTVx x) ∧ t.dt = s.getV x) ∧
    (t.st = s.st ∨ (s.pending.head? = some .tick ∧ t.st.toNat = s.st.toNat - 1) ∨ s.pending.head? = some .reset ∨
      ∃ x, s.runs ∧ s.stepsNext ∧ s.fetched = .instr (.ldSTVx x) ∧ t.st = s.getV x)

/-- Only CLS and DRW change the framebuffer, and Reset clears it (43_display.md R143, 70_reset_and_hazards.md R200; that Reset
may come again is D26, log 29). -/
def Obligations.OnlyClearAndDrawChangePixels : Prop :=
  ∀ s t : State, step s = .next t →
    (t.fb ≠ s.fb →
      s.pending.head? = some .reset ∨
      (s.runs ∧ s.stepsNext ∧ (s.fetched = .instr .cls ∨ ∃ x y n, s.fetched = .instr (.drwVxVyN x y n)))) ∧
    (s.pending.head? = some .reset → ∀ (px : Fin fbW) (py : Fin fbH), t.fb.pixel px py = false)

/-- Memory is written only by LD B, LD [I], Load and Reset, and by each only in its own span (20_memory.md R45; D20, D26, log
24, 29). -/
def Obligations.OnlyStoresAndLoadsChangeMemory : Prop :=
  ∀ (s t : State) (a : Nat), step s = .next t → t.readByte a ≠ s.readByte a →
    s.pending.head? = some .reset ∨
    (∃ bytes, s.pending.head? = some (.load bytes) ∧ inSpan 0x200 bytes.length a) ∨
    (s.runs ∧ s.stepsNext ∧
      ((∃ x, s.fetched = .instr (.ldBVx x) ∧ inSpan s.i.toNat 3 a) ∨
       (∃ x, s.fetched = .instr (.ldMemVx x) ∧ inSpan s.i.toNat (x.toNat + 1) a)))

/-- VF changes only as the flag of the six flag writers or as the named destination of another instruction
(10_state.md R13, R14; D16, D18, log 20, 22). -/
def Obligations.OnlyFlagWritersTouchVF : Prop :=
  ∀ (i : Instr) (s t : State), exec i s = .next t → t.getV vF ≠ s.getV vF → writesFlag i ∨ namesVF i

/-- PC after each instruction, the table of 40_cycle_control.md R91, for a cycle that fetches inside memory (no skip above key
15 D5, unreduced sums D6, PC of a faulting cycle D8, PC advanced by LD Vx,K D13, the VX offset D29; log 11, 12, 14, 18, 31). -/
def Obligations.ProgramCounterFollowsTheTable : Prop :=
  ∀ (i : Instr) (s t : State), s.pc.toNat ≤ 0x0FFE → exec i s = .next t → t.pc.toNat = pcAfter s i

/-- No step changes the configuration (00_scope.md R5, 70_reset_and_hazards.md R202), and only KeySet and Reset change the key
latch (10_state.md R21). -/
def Obligations.ConfigurationAndKeysAreTheHosts : Prop :=
  ∀ s t : State, step s = .next t →
    t.cfg = s.cfg ∧
    (t.keys ≠ s.keys → s.pending.head? = some .reset ∨ ∃ k pressed, s.pending.head? = some (.keySet k pressed))

/-- No instruction's meaning stops: exec answers a next state for every instruction on every state, and no step is refused
(30_encoding.md R64, R70, 60_exceptions.md R178). exec is defined on states in which no cycle runs an instruction (a faulted or
waiting core, PC above 0x0FFE) only by the model's choice (log 35); a suppressed or faulting instruction is a next state too
(D5, D8, log 4, 11, 14). -/
def Obligations.NoInstructionStopsTheMachine : Prop :=
  (∀ (i : Instr) (s : State), ∃ t, exec i s = .next t) ∧ (∀ (s : State) (r : Refusal), step s ≠ .refused r)
end

