-- ==== Sys2Proof/Laws/Decode.lean ====
section
/-! SUPPORT. The fields of a word and the words of a format as numbers, and the fields of each format read back. -/

namespace Sys2Proof

theorem append_toNat {m n : Nat} (a : BitVec m) (b : BitVec n) : (a ++ b).toNat = a.toNat * 2 ^ n + b.toNat := by
  rw [BitVec.toNat_append, ← Nat.shiftLeft_add_eq_or_of_lt b.isLt, Nat.shiftLeft_eq]

/-! Fields -/

theorem fieldOp_toNat (w : Word) : (fieldOp w).toNat = w.toNat / 4096 := by
  have := w.isLt
  simp only [fieldOp, BitVec.extractLsb'_toNat, Nat.shiftRight_eq_div_pow]
  omega

theorem fieldX_toNat (w : Word) : (fieldX w).toNat = w.toNat / 256 % 16 := by
  simp only [fieldX, BitVec.extractLsb'_toNat, Nat.shiftRight_eq_div_pow]

theorem fieldY_toNat (w : Word) : (fieldY w).toNat = w.toNat / 16 % 16 := by
  simp only [fieldY, BitVec.extractLsb'_toNat, Nat.shiftRight_eq_div_pow]

theorem fieldN_toNat (w : Word) : (fieldN w).toNat = w.toNat % 16 := by
  simp only [fieldN, BitVec.extractLsb'_toNat, Nat.shiftRight_eq_div_pow]
  omega

theorem fieldNN_toNat (w : Word) : (fieldNN w).toNat = w.toNat % 256 := by
  simp only [fieldNN, BitVec.extractLsb'_toNat, Nat.shiftRight_eq_div_pow]
  omega

theorem fieldNNN_toNat (w : Word) : (fieldNNN w).toNat = w.toNat % 4096 := by
  simp only [fieldNNN, BitVec.extractLsb'_toNat, Nat.shiftRight_eq_div_pow]
  omega

/-! Formats -/

theorem encodeAddr_toNat (op : BitVec 4) (nnn : Addr) : (encodeAddr op nnn).toNat = op.toNat * 4096 + nnn.toNat :=
  append_toNat op nnn

theorem encodeXNN_toNat (op : BitVec 4) (x : Reg) (nn : Byte) :
    (encodeXNN op x nn).toNat = op.toNat * 4096 + x.toNat * 256 + nn.toNat := by
  have h := append_toNat (op ++ x) nn
  rw [append_toNat op x] at h
  exact h.trans (by omega)

theorem encodeXYN_toNat (op : BitVec 4) (x y : Reg) (n : Nibble) :
    (encodeXYN op x y n).toNat = op.toNat * 4096 + x.toNat * 256 + y.toNat * 16 + n.toNat := by
  have h := append_toNat (op ++ x) (y ++ n)
  rw [append_toNat op x, append_toNat y n] at h
  exact h.trans (by omega)

theorem wordOfBytes_toNat (first second : Byte) : (wordOfBytes first second).toNat = 256 * first.toNat + second.toNat := by
  have := append_toNat first second
  unfold wordOfBytes
  omega

/-! The fields of each format -/

section
variable (op : BitVec 4) (x y : Reg) (n : Nibble) (nn : Byte) (nnn : Addr)

@[simp] theorem fieldOp_encodeAddr : fieldOp (encodeAddr op nnn) = op := by
  apply BitVec.eq_of_toNat_eq
  rw [fieldOp_toNat, encodeAddr_toNat]
  omega

@[simp] theorem fieldNNN_encodeAddr : fieldNNN (encodeAddr op nnn) = nnn := by
  apply BitVec.eq_of_toNat_eq
  rw [fieldNNN_toNat, encodeAddr_toNat]
  omega

@[simp] theorem fieldOp_encodeXNN : fieldOp (encodeXNN op x nn) = op := by
  apply BitVec.eq_of_toNat_eq
  rw [fieldOp_toNat, encodeXNN_toNat]
  omega

@[simp] theorem fieldX_encodeXNN : fieldX (encodeXNN op x nn) = x := by
  apply BitVec.eq_of_toNat_eq
  rw [fieldX_toNat, encodeXNN_toNat]
  omega

@[simp] theorem fieldNN_encodeXNN : fieldNN (encodeXNN op x nn) = nn := by
  apply BitVec.eq_of_toNat_eq
  rw [fieldNN_toNat, encodeXNN_toNat]
  omega

@[simp] theorem fieldOp_encodeXYN : fieldOp (encodeXYN op x y n) = op := by
  apply BitVec.eq_of_toNat_eq
  rw [fieldOp_toNat, encodeXYN_toNat]
  omega

@[simp] theorem fieldX_encodeXYN : fieldX (encodeXYN op x y n) = x := by
  apply BitVec.eq_of_toNat_eq
  rw [fieldX_toNat, encodeXYN_toNat]
  omega

@[simp] theorem fieldY_encodeXYN : fieldY (encodeXYN op x y n) = y := by
  apply BitVec.eq_of_toNat_eq
  rw [fieldY_toNat, encodeXYN_toNat]
  omega

@[simp] theorem fieldN_encodeXYN : fieldN (encodeXYN op x y n) = n := by
  apply BitVec.eq_of_toNat_eq
  rw [fieldN_toNat, encodeXYN_toNat]
  omega

end

/-! Masks -/

theorem encodeAddr_getLsbD (op : BitVec 4) (nnn : Addr) (i : Nat) :
    (encodeAddr op nnn).getLsbD i = if i < 12 then nnn.getLsbD i else op.getLsbD (i - 12) :=
  BitVec.getLsbD_append

theorem encodeXNN_getLsbD (op : BitVec 4) (x : Reg) (nn : Byte) (i : Nat) :
    (encodeXNN op x nn).getLsbD i =
      if i < 8 then nn.getLsbD i else if i - 8 < 4 then x.getLsbD (i - 8) else op.getLsbD (i - 8 - 4) :=
  BitVec.getLsbD_append.trans (by rw [BitVec.getLsbD_append])

theorem encodeXYN_getLsbD (op : BitVec 4) (x y : Reg) (n : Nibble) (i : Nat) :
    (encodeXYN op x y n).getLsbD i =
      if i < 8 then (if i < 4 then n.getLsbD i else y.getLsbD (i - 4))
      else if i - 8 < 4 then x.getLsbD (i - 8) else op.getLsbD (i - 8 - 4) :=
  BitVec.getLsbD_append.trans (by rw [BitVec.getLsbD_append, BitVec.getLsbD_append])

/-- The bits the mask F000 keeps (30_encoding.md R62, formats ADDR, XNN, XYN). -/
theorem and_F000 (w : Word) : w &&& 0xF000#16 = encodeAddr (fieldOp w) 0#12 := by
  apply BitVec.eq_of_getLsbD_eq
  intro i hi
  rw [encodeAddr_getLsbD]
  interval_cases i <;> simp [fieldOp]

/-- The bits the mask F00F keeps (format XYS). -/
theorem and_F00F (w : Word) : w &&& 0xF00F#16 = encodeXYN (fieldOp w) 0#4 0#4 (fieldN w) := by
  apply BitVec.eq_of_getLsbD_eq
  intro i hi
  rw [encodeXYN_getLsbD]
  interval_cases i <;> simp [fieldOp, fieldN]

/-- The bits the mask F0FF keeps (format XSS). -/
theorem and_F0FF (w : Word) : w &&& 0xF0FF#16 = encodeXNN (fieldOp w) 0#4 (fieldNN w) := by
  apply BitVec.eq_of_getLsbD_eq
  intro i hi
  rw [encodeXNN_getLsbD]
  interval_cases i <;> simp [fieldOp, fieldNN]

/-- The two bytes of a word put together give the word back. -/
theorem wordOfBytes_bytesOfWord (w : Word) : wordOfBytes (bytesOfWord w).1 (bytesOfWord w).2 = w := by
  apply BitVec.eq_of_toNat_eq
  have := w.isLt
  rw [wordOfBytes_toNat]
  simp only [bytesOfWord, Machine.regBits, BitVec.extractLsb'_toNat, Nat.shiftRight_eq_div_pow]
  omega

end Sys2Proof
end

