-- ==== Sys2Proof/Laws/Flags.lean ====
section
/-! SUPPORT. The ALU results and flags as numbers (41_alu.md R111). -/

namespace Sys2Proof.Machine

theorem flagOf_toNat (c : Bool) : (flagOf c).toNat = if c = true then 1 else 0 := by cases c <;> rfl

theorem sum8_toNat (a b : Byte) : (sum8 a b).toNat = (a.toNat + b.toNat) % 256 := by
  simp [sum8]

theorem carry_toNat (a b : Byte) : (carry a b).toNat = if a.toNat + b.toNat > 255 then 1 else 0 := by
  simp [carry, flagOf_toNat, byteValues, regBits, Nat.lt_iff_add_one_le]

theorem diff8_toNat (a b : Byte) : ((diff8 a b).toNat : Int) = ((a.toNat : Int) - b.toNat) % 256 := by
  have ha := a.isLt
  have hb := b.isLt
  simp only [diff8, byteValues, regBits, BitVec.toNat_ofNat]
  omega

theorem noBorrow_toNat (a b : Byte) : (noBorrow a b).toNat = if a.toNat ≥ b.toNat then 1 else 0 := by
  simp [noBorrow, flagOf_toNat]

theorem shr1_toNat (s : Byte) : (shr1 s).toNat = s.toNat / 2 := by
  have := s.isLt
  simp only [shr1, BitVec.toNat_ofNat]
  omega

theorem outRight_toNat (s : Byte) : (outRight s).toNat = s.toNat % 2 := by
  simp only [outRight, BitVec.toNat_ofNat]
  omega

theorem shl1_toNat (s : Byte) : (shl1 s).toNat = 2 * s.toNat % 256 := by
  simp [shl1]

theorem outLeft_toNat (s : Byte) : (outLeft s).toNat = s.toNat / 128 := by
  have := s.isLt
  simp only [outLeft, regBits, BitVec.toNat_ofNat]
  omega

end Sys2Proof.Machine
end

