-- ==== Sys2Proof/Laws/State.lean ====
section
/-! SUPPORT. One lemma per field per named update of the state, each true by rfl, so that no later proof unfolds a record
update. -/

namespace Sys2Proof.Machine

variable (s : State)

@[simp] theorem State.writeBytes_mem (a : Nat) (us : List Byte) : (s.writeBytes a us).mem = Memory.writeBytes s.cfg.font s.mem a us := rfl
@[simp] theorem State.writeBytes_v (a : Nat) (us : List Byte) : (s.writeBytes a us).v = s.v := rfl
@[simp] theorem State.writeBytes_i (a : Nat) (us : List Byte) : (s.writeBytes a us).i = s.i := rfl
@[simp] theorem State.writeBytes_pc (a : Nat) (us : List Byte) : (s.writeBytes a us).pc = s.pc := rfl
@[simp] theorem State.writeBytes_sp (a : Nat) (us : List Byte) : (s.writeBytes a us).sp = s.sp := rfl
@[simp] theorem State.writeBytes_stack (a : Nat) (us : List Byte) : (s.writeBytes a us).stack = s.stack := rfl
@[simp] theorem State.writeBytes_dt (a : Nat) (us : List Byte) : (s.writeBytes a us).dt = s.dt := rfl
@[simp] theorem State.writeBytes_st (a : Nat) (us : List Byte) : (s.writeBytes a us).st = s.st := rfl
@[simp] theorem State.writeBytes_fb (a : Nat) (us : List Byte) : (s.writeBytes a us).fb = s.fb := rfl
@[simp] theorem State.writeBytes_keys (a : Nat) (us : List Byte) : (s.writeBytes a us).keys = s.keys := rfl
@[simp] theorem State.writeBytes_status (a : Nat) (us : List Byte) : (s.writeBytes a us).status = s.status := rfl
@[simp] theorem State.writeBytes_fault (a : Nat) (us : List Byte) : (s.writeBytes a us).fault = s.fault := rfl
@[simp] theorem State.writeBytes_cfg (a : Nat) (us : List Byte) : (s.writeBytes a us).cfg = s.cfg := rfl
@[simp] theorem State.writeBytes_pending (a : Nat) (us : List Byte) : (s.writeBytes a us).pending = s.pending := rfl
@[simp] theorem State.writeBytes_draw (a : Nat) (us : List Byte) : (s.writeBytes a us).draw = s.draw := rfl

@[simp] theorem State.setV_mem (x : Reg) (u : Byte) : (s.setV x u).mem = s.mem := rfl
@[simp] theorem State.setV_v (x : Reg) (u : Byte) : (s.setV x u).v = s.v.set x.toNat u x.isLt := rfl
@[simp] theorem State.setV_i (x : Reg) (u : Byte) : (s.setV x u).i = s.i := rfl
@[simp] theorem State.setV_pc (x : Reg) (u : Byte) : (s.setV x u).pc = s.pc := rfl
@[simp] theorem State.setV_sp (x : Reg) (u : Byte) : (s.setV x u).sp = s.sp := rfl
@[simp] theorem State.setV_stack (x : Reg) (u : Byte) : (s.setV x u).stack = s.stack := rfl
@[simp] theorem State.setV_dt (x : Reg) (u : Byte) : (s.setV x u).dt = s.dt := rfl
@[simp] theorem State.setV_st (x : Reg) (u : Byte) : (s.setV x u).st = s.st := rfl
@[simp] theorem State.setV_fb (x : Reg) (u : Byte) : (s.setV x u).fb = s.fb := rfl
@[simp] theorem State.setV_keys (x : Reg) (u : Byte) : (s.setV x u).keys = s.keys := rfl
@[simp] theorem State.setV_status (x : Reg) (u : Byte) : (s.setV x u).status = s.status := rfl
@[simp] theorem State.setV_fault (x : Reg) (u : Byte) : (s.setV x u).fault = s.fault := rfl
@[simp] theorem State.setV_cfg (x : Reg) (u : Byte) : (s.setV x u).cfg = s.cfg := rfl
@[simp] theorem State.setV_pending (x : Reg) (u : Byte) : (s.setV x u).pending = s.pending := rfl
@[simp] theorem State.setV_draw (x : Reg) (u : Byte) : (s.setV x u).draw = s.draw := rfl

@[simp] theorem State.setRegs_mem (v : Vector Byte nregs) : (s.setRegs v).mem = s.mem := rfl
@[simp] theorem State.setRegs_v (v : Vector Byte nregs) : (s.setRegs v).v = v := rfl
@[simp] theorem State.setRegs_i (v : Vector Byte nregs) : (s.setRegs v).i = s.i := rfl
@[simp] theorem State.setRegs_pc (v : Vector Byte nregs) : (s.setRegs v).pc = s.pc := rfl
@[simp] theorem State.setRegs_sp (v : Vector Byte nregs) : (s.setRegs v).sp = s.sp := rfl
@[simp] theorem State.setRegs_stack (v : Vector Byte nregs) : (s.setRegs v).stack = s.stack := rfl
@[simp] theorem State.setRegs_dt (v : Vector Byte nregs) : (s.setRegs v).dt = s.dt := rfl
@[simp] theorem State.setRegs_st (v : Vector Byte nregs) : (s.setRegs v).st = s.st := rfl
@[simp] theorem State.setRegs_fb (v : Vector Byte nregs) : (s.setRegs v).fb = s.fb := rfl
@[simp] theorem State.setRegs_keys (v : Vector Byte nregs) : (s.setRegs v).keys = s.keys := rfl
@[simp] theorem State.setRegs_status (v : Vector Byte nregs) : (s.setRegs v).status = s.status := rfl
@[simp] theorem State.setRegs_fault (v : Vector Byte nregs) : (s.setRegs v).fault = s.fault := rfl
@[simp] theorem State.setRegs_cfg (v : Vector Byte nregs) : (s.setRegs v).cfg = s.cfg := rfl
@[simp] theorem State.setRegs_pending (v : Vector Byte nregs) : (s.setRegs v).pending = s.pending := rfl
@[simp] theorem State.setRegs_draw (v : Vector Byte nregs) : (s.setRegs v).draw = s.draw := rfl

@[simp] theorem State.setVFlag_mem (x : Reg) (r f : Byte) : (s.setVFlag x r f).mem = s.mem := rfl
@[simp] theorem State.setVFlag_v (x : Reg) (r f : Byte) : (s.setVFlag x r f).v = (s.v.set x.toNat r x.isLt).set vF.toNat f vF.isLt := rfl
@[simp] theorem State.setVFlag_i (x : Reg) (r f : Byte) : (s.setVFlag x r f).i = s.i := rfl
@[simp] theorem State.setVFlag_pc (x : Reg) (r f : Byte) : (s.setVFlag x r f).pc = s.pc := rfl
@[simp] theorem State.setVFlag_sp (x : Reg) (r f : Byte) : (s.setVFlag x r f).sp = s.sp := rfl
@[simp] theorem State.setVFlag_stack (x : Reg) (r f : Byte) : (s.setVFlag x r f).stack = s.stack := rfl
@[simp] theorem State.setVFlag_dt (x : Reg) (r f : Byte) : (s.setVFlag x r f).dt = s.dt := rfl
@[simp] theorem State.setVFlag_st (x : Reg) (r f : Byte) : (s.setVFlag x r f).st = s.st := rfl
@[simp] theorem State.setVFlag_fb (x : Reg) (r f : Byte) : (s.setVFlag x r f).fb = s.fb := rfl
@[simp] theorem State.setVFlag_keys (x : Reg) (r f : Byte) : (s.setVFlag x r f).keys = s.keys := rfl
@[simp] theorem State.setVFlag_status (x : Reg) (r f : Byte) : (s.setVFlag x r f).status = s.status := rfl
@[simp] theorem State.setVFlag_fault (x : Reg) (r f : Byte) : (s.setVFlag x r f).fault = s.fault := rfl
@[simp] theorem State.setVFlag_cfg (x : Reg) (r f : Byte) : (s.setVFlag x r f).cfg = s.cfg := rfl
@[simp] theorem State.setVFlag_pending (x : Reg) (r f : Byte) : (s.setVFlag x r f).pending = s.pending := rfl
@[simp] theorem State.setVFlag_draw (x : Reg) (r f : Byte) : (s.setVFlag x r f).draw = s.draw := rfl

@[simp] theorem State.setI_mem (w : Word) : (s.setI w).mem = s.mem := rfl
@[simp] theorem State.setI_v (w : Word) : (s.setI w).v = s.v := rfl
@[simp] theorem State.setI_i (w : Word) : (s.setI w).i = w := rfl
@[simp] theorem State.setI_pc (w : Word) : (s.setI w).pc = s.pc := rfl
@[simp] theorem State.setI_sp (w : Word) : (s.setI w).sp = s.sp := rfl
@[simp] theorem State.setI_stack (w : Word) : (s.setI w).stack = s.stack := rfl
@[simp] theorem State.setI_dt (w : Word) : (s.setI w).dt = s.dt := rfl
@[simp] theorem State.setI_st (w : Word) : (s.setI w).st = s.st := rfl
@[simp] theorem State.setI_fb (w : Word) : (s.setI w).fb = s.fb := rfl
@[simp] theorem State.setI_keys (w : Word) : (s.setI w).keys = s.keys := rfl
@[simp] theorem State.setI_status (w : Word) : (s.setI w).status = s.status := rfl
@[simp] theorem State.setI_fault (w : Word) : (s.setI w).fault = s.fault := rfl
@[simp] theorem State.setI_cfg (w : Word) : (s.setI w).cfg = s.cfg := rfl
@[simp] theorem State.setI_pending (w : Word) : (s.setI w).pending = s.pending := rfl
@[simp] theorem State.setI_draw (w : Word) : (s.setI w).draw = s.draw := rfl

@[simp] theorem State.setDt_mem (u : Byte) : (s.setDt u).mem = s.mem := rfl
@[simp] theorem State.setDt_v (u : Byte) : (s.setDt u).v = s.v := rfl
@[simp] theorem State.setDt_i (u : Byte) : (s.setDt u).i = s.i := rfl
@[simp] theorem State.setDt_pc (u : Byte) : (s.setDt u).pc = s.pc := rfl
@[simp] theorem State.setDt_sp (u : Byte) : (s.setDt u).sp = s.sp := rfl
@[simp] theorem State.setDt_stack (u : Byte) : (s.setDt u).stack = s.stack := rfl
@[simp] theorem State.setDt_dt (u : Byte) : (s.setDt u).dt = u := rfl
@[simp] theorem State.setDt_st (u : Byte) : (s.setDt u).st = s.st := rfl
@[simp] theorem State.setDt_fb (u : Byte) : (s.setDt u).fb = s.fb := rfl
@[simp] theorem State.setDt_keys (u : Byte) : (s.setDt u).keys = s.keys := rfl
@[simp] theorem State.setDt_status (u : Byte) : (s.setDt u).status = s.status := rfl
@[simp] theorem State.setDt_fault (u : Byte) : (s.setDt u).fault = s.fault := rfl
@[simp] theorem State.setDt_cfg (u : Byte) : (s.setDt u).cfg = s.cfg := rfl
@[simp] theorem State.setDt_pending (u : Byte) : (s.setDt u).pending = s.pending := rfl
@[simp] theorem State.setDt_draw (u : Byte) : (s.setDt u).draw = s.draw := rfl

@[simp] theorem State.setSt_mem (u : Byte) : (s.setSt u).mem = s.mem := rfl
@[simp] theorem State.setSt_v (u : Byte) : (s.setSt u).v = s.v := rfl
@[simp] theorem State.setSt_i (u : Byte) : (s.setSt u).i = s.i := rfl
@[simp] theorem State.setSt_pc (u : Byte) : (s.setSt u).pc = s.pc := rfl
@[simp] theorem State.setSt_sp (u : Byte) : (s.setSt u).sp = s.sp := rfl
@[simp] theorem State.setSt_stack (u : Byte) : (s.setSt u).stack = s.stack := rfl
@[simp] theorem State.setSt_dt (u : Byte) : (s.setSt u).dt = s.dt := rfl
@[simp] theorem State.setSt_st (u : Byte) : (s.setSt u).st = u := rfl
@[simp] theorem State.setSt_fb (u : Byte) : (s.setSt u).fb = s.fb := rfl
@[simp] theorem State.setSt_keys (u : Byte) : (s.setSt u).keys = s.keys := rfl
@[simp] theorem State.setSt_status (u : Byte) : (s.setSt u).status = s.status := rfl
@[simp] theorem State.setSt_fault (u : Byte) : (s.setSt u).fault = s.fault := rfl
@[simp] theorem State.setSt_cfg (u : Byte) : (s.setSt u).cfg = s.cfg := rfl
@[simp] theorem State.setSt_pending (u : Byte) : (s.setSt u).pending = s.pending := rfl
@[simp] theorem State.setSt_draw (u : Byte) : (s.setSt u).draw = s.draw := rfl

@[simp] theorem State.setFb_mem (fb : FrameBuffer) : (s.setFb fb).mem = s.mem := rfl
@[simp] theorem State.setFb_v (fb : FrameBuffer) : (s.setFb fb).v = s.v := rfl
@[simp] theorem State.setFb_i (fb : FrameBuffer) : (s.setFb fb).i = s.i := rfl
@[simp] theorem State.setFb_pc (fb : FrameBuffer) : (s.setFb fb).pc = s.pc := rfl
@[simp] theorem State.setFb_sp (fb : FrameBuffer) : (s.setFb fb).sp = s.sp := rfl
@[simp] theorem State.setFb_stack (fb : FrameBuffer) : (s.setFb fb).stack = s.stack := rfl
@[simp] theorem State.setFb_dt (fb : FrameBuffer) : (s.setFb fb).dt = s.dt := rfl
@[simp] theorem State.setFb_st (fb : FrameBuffer) : (s.setFb fb).st = s.st := rfl
@[simp] theorem State.setFb_fb (fb : FrameBuffer) : (s.setFb fb).fb = fb := rfl
@[simp] theorem State.setFb_keys (fb : FrameBuffer) : (s.setFb fb).keys = s.keys := rfl
@[simp] theorem State.setFb_status (fb : FrameBuffer) : (s.setFb fb).status = s.status := rfl
@[simp] theorem State.setFb_fault (fb : FrameBuffer) : (s.setFb fb).fault = s.fault := rfl
@[simp] theorem State.setFb_cfg (fb : FrameBuffer) : (s.setFb fb).cfg = s.cfg := rfl
@[simp] theorem State.setFb_pending (fb : FrameBuffer) : (s.setFb fb).pending = s.pending := rfl
@[simp] theorem State.setFb_draw (fb : FrameBuffer) : (s.setFb fb).draw = s.draw := rfl

@[simp] theorem State.setKeys_mem (ks : Vector Bool nkeys) : (s.setKeys ks).mem = s.mem := rfl
@[simp] theorem State.setKeys_v (ks : Vector Bool nkeys) : (s.setKeys ks).v = s.v := rfl
@[simp] theorem State.setKeys_i (ks : Vector Bool nkeys) : (s.setKeys ks).i = s.i := rfl
@[simp] theorem State.setKeys_pc (ks : Vector Bool nkeys) : (s.setKeys ks).pc = s.pc := rfl
@[simp] theorem State.setKeys_sp (ks : Vector Bool nkeys) : (s.setKeys ks).sp = s.sp := rfl
@[simp] theorem State.setKeys_stack (ks : Vector Bool nkeys) : (s.setKeys ks).stack = s.stack := rfl
@[simp] theorem State.setKeys_dt (ks : Vector Bool nkeys) : (s.setKeys ks).dt = s.dt := rfl
@[simp] theorem State.setKeys_st (ks : Vector Bool nkeys) : (s.setKeys ks).st = s.st := rfl
@[simp] theorem State.setKeys_fb (ks : Vector Bool nkeys) : (s.setKeys ks).fb = s.fb := rfl
@[simp] theorem State.setKeys_keys (ks : Vector Bool nkeys) : (s.setKeys ks).keys = ks := rfl
@[simp] theorem State.setKeys_status (ks : Vector Bool nkeys) : (s.setKeys ks).status = s.status := rfl
@[simp] theorem State.setKeys_fault (ks : Vector Bool nkeys) : (s.setKeys ks).fault = s.fault := rfl
@[simp] theorem State.setKeys_cfg (ks : Vector Bool nkeys) : (s.setKeys ks).cfg = s.cfg := rfl
@[simp] theorem State.setKeys_pending (ks : Vector Bool nkeys) : (s.setKeys ks).pending = s.pending := rfl
@[simp] theorem State.setKeys_draw (ks : Vector Bool nkeys) : (s.setKeys ks).draw = s.draw := rfl

@[simp] theorem State.setStatus_mem (q : Status) : (s.setStatus q).mem = s.mem := rfl
@[simp] theorem State.setStatus_v (q : Status) : (s.setStatus q).v = s.v := rfl
@[simp] theorem State.setStatus_i (q : Status) : (s.setStatus q).i = s.i := rfl
@[simp] theorem State.setStatus_pc (q : Status) : (s.setStatus q).pc = s.pc := rfl
@[simp] theorem State.setStatus_sp (q : Status) : (s.setStatus q).sp = s.sp := rfl
@[simp] theorem State.setStatus_stack (q : Status) : (s.setStatus q).stack = s.stack := rfl
@[simp] theorem State.setStatus_dt (q : Status) : (s.setStatus q).dt = s.dt := rfl
@[simp] theorem State.setStatus_st (q : Status) : (s.setStatus q).st = s.st := rfl
@[simp] theorem State.setStatus_fb (q : Status) : (s.setStatus q).fb = s.fb := rfl
@[simp] theorem State.setStatus_keys (q : Status) : (s.setStatus q).keys = s.keys := rfl
@[simp] theorem State.setStatus_status (q : Status) : (s.setStatus q).status = q := rfl
@[simp] theorem State.setStatus_fault (q : Status) : (s.setStatus q).fault = s.fault := rfl
@[simp] theorem State.setStatus_cfg (q : Status) : (s.setStatus q).cfg = s.cfg := rfl
@[simp] theorem State.setStatus_pending (q : Status) : (s.setStatus q).pending = s.pending := rfl
@[simp] theorem State.setStatus_draw (q : Status) : (s.setStatus q).draw = s.draw := rfl

@[simp] theorem State.useRandom_mem : s.useRandom.mem = s.mem := rfl
@[simp] theorem State.useRandom_v : s.useRandom.v = s.v := rfl
@[simp] theorem State.useRandom_i : s.useRandom.i = s.i := rfl
@[simp] theorem State.useRandom_pc : s.useRandom.pc = s.pc := rfl
@[simp] theorem State.useRandom_sp : s.useRandom.sp = s.sp := rfl
@[simp] theorem State.useRandom_stack : s.useRandom.stack = s.stack := rfl
@[simp] theorem State.useRandom_dt : s.useRandom.dt = s.dt := rfl
@[simp] theorem State.useRandom_st : s.useRandom.st = s.st := rfl
@[simp] theorem State.useRandom_fb : s.useRandom.fb = s.fb := rfl
@[simp] theorem State.useRandom_keys : s.useRandom.keys = s.keys := rfl
@[simp] theorem State.useRandom_status : s.useRandom.status = s.status := rfl
@[simp] theorem State.useRandom_fault : s.useRandom.fault = s.fault := rfl
@[simp] theorem State.useRandom_cfg : s.useRandom.cfg = s.cfg := rfl
@[simp] theorem State.useRandom_pending : s.useRandom.pending = s.pending := rfl
@[simp] theorem State.useRandom_draw : s.useRandom.draw = s.draw + 1 := rfl

@[simp] theorem State.setPending_mem (es : List Event) : (s.setPending es).mem = s.mem := rfl
@[simp] theorem State.setPending_v (es : List Event) : (s.setPending es).v = s.v := rfl
@[simp] theorem State.setPending_i (es : List Event) : (s.setPending es).i = s.i := rfl
@[simp] theorem State.setPending_pc (es : List Event) : (s.setPending es).pc = s.pc := rfl
@[simp] theorem State.setPending_sp (es : List Event) : (s.setPending es).sp = s.sp := rfl
@[simp] theorem State.setPending_stack (es : List Event) : (s.setPending es).stack = s.stack := rfl
@[simp] theorem State.setPending_dt (es : List Event) : (s.setPending es).dt = s.dt := rfl
@[simp] theorem State.setPending_st (es : List Event) : (s.setPending es).st = s.st := rfl
@[simp] theorem State.setPending_fb (es : List Event) : (s.setPending es).fb = s.fb := rfl
@[simp] theorem State.setPending_keys (es : List Event) : (s.setPending es).keys = s.keys := rfl
@[simp] theorem State.setPending_status (es : List Event) : (s.setPending es).status = s.status := rfl
@[simp] theorem State.setPending_fault (es : List Event) : (s.setPending es).fault = s.fault := rfl
@[simp] theorem State.setPending_cfg (es : List Event) : (s.setPending es).cfg = s.cfg := rfl
@[simp] theorem State.setPending_pending (es : List Event) : (s.setPending es).pending = es := rfl
@[simp] theorem State.setPending_draw (es : List Event) : (s.setPending es).draw = s.draw := rfl

@[simp] theorem State.setPc_mem (w : Word) : (s.setPc w).mem = s.mem := rfl
@[simp] theorem State.setPc_v (w : Word) : (s.setPc w).v = s.v := rfl
@[simp] theorem State.setPc_i (w : Word) : (s.setPc w).i = s.i := rfl
@[simp] theorem State.setPc_pc (w : Word) : (s.setPc w).pc = w := rfl
@[simp] theorem State.setPc_sp (w : Word) : (s.setPc w).sp = s.sp := rfl
@[simp] theorem State.setPc_stack (w : Word) : (s.setPc w).stack = s.stack := rfl
@[simp] theorem State.setPc_dt (w : Word) : (s.setPc w).dt = s.dt := rfl
@[simp] theorem State.setPc_st (w : Word) : (s.setPc w).st = s.st := rfl
@[simp] theorem State.setPc_fb (w : Word) : (s.setPc w).fb = s.fb := rfl
@[simp] theorem State.setPc_keys (w : Word) : (s.setPc w).keys = s.keys := rfl
@[simp] theorem State.setPc_status (w : Word) : (s.setPc w).status = s.status := rfl
@[simp] theorem State.setPc_fault (w : Word) : (s.setPc w).fault = s.fault := rfl
@[simp] theorem State.setPc_cfg (w : Word) : (s.setPc w).cfg = s.cfg := rfl
@[simp] theorem State.setPc_pending (w : Word) : (s.setPc w).pending = s.pending := rfl
@[simp] theorem State.setPc_draw (w : Word) : (s.setPc w).draw = s.draw := rfl

/-- The advanced program counter, in the numeral the rules use (`INSTR_BYTES` is 2). -/
theorem State.npc_eq : s.npc = s.pc + 2#16 := rfl

@[simp] theorem State.advance_mem : s.advance.mem = s.mem := rfl
@[simp] theorem State.advance_v : s.advance.v = s.v := rfl
@[simp] theorem State.advance_i : s.advance.i = s.i := rfl
@[simp] theorem State.advance_pc : s.advance.pc = s.pc + 2#16 := rfl
@[simp] theorem State.advance_sp : s.advance.sp = s.sp := rfl
@[simp] theorem State.advance_stack : s.advance.stack = s.stack := rfl
@[simp] theorem State.advance_dt : s.advance.dt = s.dt := rfl
@[simp] theorem State.advance_st : s.advance.st = s.st := rfl
@[simp] theorem State.advance_fb : s.advance.fb = s.fb := rfl
@[simp] theorem State.advance_keys : s.advance.keys = s.keys := rfl
@[simp] theorem State.advance_status : s.advance.status = s.status := rfl
@[simp] theorem State.advance_fault : s.advance.fault = s.fault := rfl
@[simp] theorem State.advance_cfg : s.advance.cfg = s.cfg := rfl
@[simp] theorem State.advance_pending : s.advance.pending = s.pending := rfl
@[simp] theorem State.advance_draw : s.advance.draw = s.draw := rfl

@[simp] theorem State.push_mem (w : Word) (h : s.sp.val < stackDepth) : (s.push w h).mem = s.mem := rfl
@[simp] theorem State.push_v (w : Word) (h : s.sp.val < stackDepth) : (s.push w h).v = s.v := rfl
@[simp] theorem State.push_i (w : Word) (h : s.sp.val < stackDepth) : (s.push w h).i = s.i := rfl
@[simp] theorem State.push_pc (w : Word) (h : s.sp.val < stackDepth) : (s.push w h).pc = s.pc := rfl
@[simp] theorem State.push_sp (w : Word) (h : s.sp.val < stackDepth) : (s.push w h).sp = ⟨s.sp.val + 1, by omega⟩ := rfl
@[simp] theorem State.push_stack (w : Word) (h : s.sp.val < stackDepth) : (s.push w h).stack = s.stack.set s.sp.val w h := rfl
@[simp] theorem State.push_dt (w : Word) (h : s.sp.val < stackDepth) : (s.push w h).dt = s.dt := rfl
@[simp] theorem State.push_st (w : Word) (h : s.sp.val < stackDepth) : (s.push w h).st = s.st := rfl
@[simp] theorem State.push_fb (w : Word) (h : s.sp.val < stackDepth) : (s.push w h).fb = s.fb := rfl
@[simp] theorem State.push_keys (w : Word) (h : s.sp.val < stackDepth) : (s.push w h).keys = s.keys := rfl
@[simp] theorem State.push_status (w : Word) (h : s.sp.val < stackDepth) : (s.push w h).status = s.status := rfl
@[simp] theorem State.push_fault (w : Word) (h : s.sp.val < stackDepth) : (s.push w h).fault = s.fault := rfl
@[simp] theorem State.push_cfg (w : Word) (h : s.sp.val < stackDepth) : (s.push w h).cfg = s.cfg := rfl
@[simp] theorem State.push_pending (w : Word) (h : s.sp.val < stackDepth) : (s.push w h).pending = s.pending := rfl
@[simp] theorem State.push_draw (w : Word) (h : s.sp.val < stackDepth) : (s.push w h).draw = s.draw := rfl

@[simp] theorem State.pop_mem : s.pop.mem = s.mem := rfl
@[simp] theorem State.pop_v : s.pop.v = s.v := rfl
@[simp] theorem State.pop_i : s.pop.i = s.i := rfl
@[simp] theorem State.pop_pc : s.pop.pc = s.pc := rfl
@[simp] theorem State.pop_sp : s.pop.sp = ⟨s.sp.val - 1, by have := s.sp.isLt; omega⟩ := rfl
@[simp] theorem State.pop_stack : s.pop.stack = s.stack := rfl
@[simp] theorem State.pop_dt : s.pop.dt = s.dt := rfl
@[simp] theorem State.pop_st : s.pop.st = s.st := rfl
@[simp] theorem State.pop_fb : s.pop.fb = s.fb := rfl
@[simp] theorem State.pop_keys : s.pop.keys = s.keys := rfl
@[simp] theorem State.pop_status : s.pop.status = s.status := rfl
@[simp] theorem State.pop_fault : s.pop.fault = s.fault := rfl
@[simp] theorem State.pop_cfg : s.pop.cfg = s.cfg := rfl
@[simp] theorem State.pop_pending : s.pop.pending = s.pending := rfl
@[simp] theorem State.pop_draw : s.pop.draw = s.draw := rfl

@[simp] theorem State.latch_mem (f : Fault) : (s.latch f).mem = s.mem := rfl
@[simp] theorem State.latch_v (f : Fault) : (s.latch f).v = s.v := rfl
@[simp] theorem State.latch_i (f : Fault) : (s.latch f).i = s.i := rfl
@[simp] theorem State.latch_pc (f : Fault) : (s.latch f).pc = s.pc := rfl
@[simp] theorem State.latch_sp (f : Fault) : (s.latch f).sp = s.sp := rfl
@[simp] theorem State.latch_stack (f : Fault) : (s.latch f).stack = s.stack := rfl
@[simp] theorem State.latch_dt (f : Fault) : (s.latch f).dt = s.dt := rfl
@[simp] theorem State.latch_st (f : Fault) : (s.latch f).st = s.st := rfl
@[simp] theorem State.latch_fb (f : Fault) : (s.latch f).fb = s.fb := rfl
@[simp] theorem State.latch_keys (f : Fault) : (s.latch f).keys = s.keys := rfl
@[simp] theorem State.latch_status (f : Fault) : (s.latch f).status = s.status := rfl
@[simp] theorem State.latch_fault (f : Fault) : (s.latch f).fault = some f := rfl
@[simp] theorem State.latch_cfg (f : Fault) : (s.latch f).cfg = s.cfg := rfl
@[simp] theorem State.latch_pending (f : Fault) : (s.latch f).pending = s.pending := rfl
@[simp] theorem State.latch_draw (f : Fault) : (s.latch f).draw = s.draw := rfl

@[simp] theorem State.skipIf_mem (c : Bool) : (s.skipIf c).mem = s.mem := by cases c <;> rfl
@[simp] theorem State.skipIf_v (c : Bool) : (s.skipIf c).v = s.v := by cases c <;> rfl
@[simp] theorem State.skipIf_i (c : Bool) : (s.skipIf c).i = s.i := by cases c <;> rfl
@[simp] theorem State.skipIf_pc (c : Bool) : (s.skipIf c).pc = if c then s.pc + 2#16 + 2#16 else s.pc + 2#16 := by
  cases c <;> rfl
@[simp] theorem State.skipIf_sp (c : Bool) : (s.skipIf c).sp = s.sp := by cases c <;> rfl
@[simp] theorem State.skipIf_stack (c : Bool) : (s.skipIf c).stack = s.stack := by cases c <;> rfl
@[simp] theorem State.skipIf_dt (c : Bool) : (s.skipIf c).dt = s.dt := by cases c <;> rfl
@[simp] theorem State.skipIf_st (c : Bool) : (s.skipIf c).st = s.st := by cases c <;> rfl
@[simp] theorem State.skipIf_fb (c : Bool) : (s.skipIf c).fb = s.fb := by cases c <;> rfl
@[simp] theorem State.skipIf_keys (c : Bool) : (s.skipIf c).keys = s.keys := by cases c <;> rfl
@[simp] theorem State.skipIf_status (c : Bool) : (s.skipIf c).status = s.status := by cases c <;> rfl
@[simp] theorem State.skipIf_fault (c : Bool) : (s.skipIf c).fault = s.fault := by cases c <;> rfl
@[simp] theorem State.skipIf_cfg (c : Bool) : (s.skipIf c).cfg = s.cfg := by cases c <;> rfl
@[simp] theorem State.skipIf_pending (c : Bool) : (s.skipIf c).pending = s.pending := by cases c <;> rfl
@[simp] theorem State.skipIf_draw (c : Bool) : (s.skipIf c).draw = s.draw := by cases c <;> rfl

@[simp] theorem State.resetEvent_mem : s.resetEvent.mem = State.reset.mem := rfl
@[simp] theorem State.resetEvent_v : s.resetEvent.v = State.reset.v := rfl
@[simp] theorem State.resetEvent_i : s.resetEvent.i = State.reset.i := rfl
@[simp] theorem State.resetEvent_pc : s.resetEvent.pc = State.reset.pc := rfl
@[simp] theorem State.resetEvent_sp : s.resetEvent.sp = State.reset.sp := rfl
@[simp] theorem State.resetEvent_stack : s.resetEvent.stack = State.reset.stack := rfl
@[simp] theorem State.resetEvent_dt : s.resetEvent.dt = State.reset.dt := rfl
@[simp] theorem State.resetEvent_st : s.resetEvent.st = State.reset.st := rfl
@[simp] theorem State.resetEvent_fb : s.resetEvent.fb = State.reset.fb := rfl
@[simp] theorem State.resetEvent_keys : s.resetEvent.keys = State.reset.keys := rfl
@[simp] theorem State.resetEvent_status : s.resetEvent.status = State.reset.status := rfl
@[simp] theorem State.resetEvent_fault : s.resetEvent.fault = State.reset.fault := rfl
@[simp] theorem State.resetEvent_cfg : s.resetEvent.cfg = s.cfg := rfl
@[simp] theorem State.resetEvent_pending : s.resetEvent.pending = s.pending := rfl
@[simp] theorem State.resetEvent_draw : s.resetEvent.draw = s.draw := rfl

end Sys2Proof.Machine
end

