-- ==== Sys2Proof/Laws/Memory.lean ====
section
/-! SUPPORT. What the memory operations do: a read after a write, the canonical form they keep, and that canonical memories
which read alike are equal data. -/

namespace Sys2Proof.Machine

variable {font : Vector Byte fontSize}

/-! One byte -/

theorem Memory.read_insert (m : Memory) (a b : Nat) (u : Byte) :
    Memory.read font (Memory.insert m a u) b = if b = a then u else Memory.read font m b := by
  induction m with
  | nil => by_cases h : b = a <;> simp [Memory.insert, Memory.read, h]
  | cons c m ih =>
    obtain ⟨d, t⟩ := c
    simp only [Memory.insert]
    split
    · by_cases h : b = a <;> simp [Memory.read, h]
    · split
      · by_cases h : b = a <;> simp_all [Memory.read]
      · by_cases h : b = d
        · have : ¬ b = a := by omega
          simp [Memory.read, h]
          omega
        · simp [Memory.read, h, ih]

/-- An address above every listed one reads as its reset content. -/
theorem Memory.read_of_unlisted (m : Memory) (a : Nat) (h : ∀ c ∈ m, c.1 ≠ a) :
    Memory.read font m a = Memory.blank font a := by
  induction m with
  | nil => rfl
  | cons c m ih =>
    obtain ⟨d, t⟩ := c
    have hd : d ≠ a := h (d, t) (by simp)
    simp only [Memory.read, if_neg (Ne.symm hd)]
    exact ih fun c hc => h c (by simp [hc])

theorem Memory.read_erase_same (m : Memory) (a : Nat) :
    Memory.read font (Memory.erase m a) a = Memory.blank font a :=
  Memory.read_of_unlisted _ _ fun c hc => by simpa [Memory.erase] using (List.mem_filter.mp hc).2

theorem Memory.read_erase_other (m : Memory) {a b : Nat} (h : b ≠ a) :
    Memory.read font (Memory.erase m a) b = Memory.read font m b := by
  induction m with
  | nil => rfl
  | cons c m ih =>
    obtain ⟨d, t⟩ := c
    by_cases hd : d = a
    · subst hd
      have : Memory.erase ((d, t) :: m) d = Memory.erase m d := by simp [Memory.erase]
      rw [this, ih]; simp [Memory.read, h]
    · have : Memory.erase ((d, t) :: m) a = (d, t) :: Memory.erase m a := by simp [Memory.erase, hd]
      rw [this]; simp [Memory.read, ih]

/-- A read after a write: the byte written at its address inside memory, every other byte as before. -/
theorem Memory.read_write (m : Memory) (a b : Nat) (u : Byte) :
    Memory.read font (Memory.write font m a u) b = if b = a ∧ a < memSize then u else Memory.read font m b := by
  unfold Memory.write
  by_cases ha : a < memSize
  · by_cases hu : u = Memory.blank font a
    · by_cases hb : b = a
      · subst hb; simp only [ha, hu, if_true, and_self]; exact Memory.read_erase_same m b
      · simp only [ha, hu, hb, if_true, false_and, if_false]; exact Memory.read_erase_other m hb
    · simp [ha, hu, Memory.read_insert]
  · simp [ha]

/-! Several bytes -/

/-- Outside the span nothing changes. -/
theorem Memory.read_writeBytes_outside (us : List Byte) (m : Memory) (a b : Nat) (h : b < a ∨ a + us.length ≤ b) :
    Memory.read font (Memory.writeBytes font m a us) b = Memory.read font m b := by
  induction us generalizing m a with
  | nil => rfl
  | cons u us ih =>
    simp only [List.length_cons] at h
    rw [Memory.writeBytes, ih _ _ (by omega), Memory.read_write, if_neg (by omega)]

/-- Inside the span, and inside memory, each address holds its byte. -/
theorem Memory.read_writeBytes_inside (us : List Byte) (m : Memory) (a k : Nat) (hk : k < us.length)
    (hm : a + us.length ≤ memSize) : Memory.read font (Memory.writeBytes font m a us) (a + k) = us[k] := by
  induction us generalizing m a k with
  | nil => simp at hk
  | cons u us ih =>
    simp only [List.length_cons] at hk hm
    cases k with
    | zero =>
      rw [Memory.writeBytes, Memory.read_writeBytes_outside us _ _ _ (by omega), Memory.read_write,
        if_pos ⟨by omega, by omega⟩]
      rfl
    | succ k =>
      have := ih (Memory.write font m a u) (a + 1) k (by omega) (by omega)
      rw [Memory.writeBytes, show a + (k + 1) = a + 1 + k by omega, this]
      rfl

/-! The canonical form -/

theorem Memory.mem_insert {m : Memory} {a : Nat} {u : Byte} {c : Host.Cell} (h : c ∈ Memory.insert m a u) :
    c = (a, u) ∨ c ∈ m := by
  induction m with
  | nil => simpa [Memory.insert] using h
  | cons d m ih =>
    obtain ⟨b, t⟩ := d
    simp only [Memory.insert] at h
    split at h
    · simpa using h
    · split at h
      · rcases List.mem_cons.mp h with h | h
        · exact .inl h
        · exact .inr (by simp [h])
      · rcases List.mem_cons.mp h with h | h
        · exact .inr (by simp [h])
        · rcases ih h with h | h
          · exact .inl h
          · exact .inr (by simp [h])

theorem Memory.insert_sorted {m : Memory} (a : Nat) (u : Byte) (h : m.Pairwise (fun c d => c.1 < d.1)) :
    (Memory.insert m a u).Pairwise (fun c d => c.1 < d.1) := by
  induction m with
  | nil => simp [Memory.insert]
  | cons d m ih =>
    obtain ⟨b, t⟩ := d
    obtain ⟨hd, hm⟩ := List.pairwise_cons.mp h
    simp only [Memory.insert]
    split
    next hab =>
      refine List.pairwise_cons.mpr ⟨fun c hc => ?_, h⟩
      rcases List.mem_cons.mp hc with rfl | hc
      · exact hab
      · exact Nat.lt_trans hab (hd c hc)
    next hab =>
      split
      next heq => subst heq; exact List.pairwise_cons.mpr ⟨hd, hm⟩
      next hne =>
        refine List.pairwise_cons.mpr ⟨fun c hc => ?_, ih hm⟩
        rcases Memory.mem_insert hc with rfl | hc
        · show b < a; omega
        · exact hd c hc

theorem Memory.wf_nil : Memory.wf font [] := ⟨List.Pairwise.nil, fun c hc => by simp at hc⟩

/-- A write keeps the canonical form. -/
theorem Memory.wf_write {m : Memory} (a : Nat) (u : Byte) (h : Memory.wf font m) :
    Memory.wf font (Memory.write font m a u) := by
  obtain ⟨hs, hc⟩ := h
  unfold Memory.write
  split
  next ha =>
    split
    next => exact ⟨hs.filter _, fun c hm => hc c (List.mem_filter.mp hm).1⟩
    next hu =>
      refine ⟨Memory.insert_sorted a u hs, fun c hm => ?_⟩
      rcases Memory.mem_insert hm with rfl | hm
      · exact ⟨ha, hu⟩
      · exact hc c hm
  next => exact ⟨hs, hc⟩

/-- Writing several bytes keeps the canonical form. -/
theorem Memory.wf_writeBytes (us : List Byte) {m : Memory} (a : Nat) (h : Memory.wf font m) :
    Memory.wf font (Memory.writeBytes font m a us) := by
  induction us generalizing m a with
  | nil => exact h
  | cons u us ih => exact ih (a + 1) (Memory.wf_write a u h)

/-- The reset memory is canonical. -/
theorem State.reset_memory_wf : Memory.wf State.reset.cfg.font State.reset.mem := Memory.wf_nil

theorem Memory.read_cons_head (a : Nat) (u : Byte) (m : Memory) : Memory.read font ((a, u) :: m) a = u := by
  simp [Memory.read]

/-- The first address of a canonical memory is the least at which it differs from the reset contents, so canonical memories
that read alike at every address are equal. -/
theorem Memory.ext_of_read (m n : Memory) (hm : Memory.wf font m) (hn : Memory.wf font n)
    (h : ∀ a, Memory.read font m a = Memory.read font n a) : m = n := by
  induction m generalizing n with
  | nil =>
    cases n with
    | nil => rfl
    | cons c n =>
      obtain ⟨a, u⟩ := c
      have := h a
      rw [Memory.read_cons_head] at this
      exact absurd this.symm (hn.2 (a, u) (by simp)).2
  | cons c m ih =>
    obtain ⟨a, u⟩ := c
    cases n with
    | nil =>
      have := h a
      rw [Memory.read_cons_head] at this
      exact absurd this (hm.2 (a, u) (by simp)).2
    | cons d n =>
      obtain ⟨b, t⟩ := d
      obtain ⟨hm1, hm2⟩ := List.pairwise_cons.mp hm.1
      obtain ⟨hn1, hn2⟩ := List.pairwise_cons.mp hn.1
      have unlisted : ∀ {k : Memory} {x y : Nat}, (∀ c ∈ k, y < c.1) → x ≤ y → ∀ c ∈ k, c.1 ≠ x := by
        intro k x y hk hxy c hc; have := hk c hc; omega
      have hab : a = b := by
        rcases Nat.lt_trichotomy a b with hlt | heq | hgt
        · have h1 := h a
          rw [Memory.read_cons_head, Memory.read_of_unlisted _ _ fun c hc => ?_] at h1
          · exact absurd h1 (hm.2 (a, u) (by simp)).2
          · rcases List.mem_cons.mp hc with rfl | hc
            · show b ≠ a; omega
            · exact unlisted hn1 (by omega) c hc
        · exact heq
        · have h1 := h b
          rw [Memory.read_cons_head, Memory.read_of_unlisted ((a, u) :: m) _ fun c hc => ?_] at h1
          · exact absurd h1.symm (hn.2 (b, t) (by simp)).2
          · rcases List.mem_cons.mp hc with rfl | hc
            · show a ≠ b; omega
            · exact unlisted hm1 (by omega) c hc
      subst hab
      have hut : u = t := by simpa [Memory.read_cons_head] using h a
      subst hut
      congr 1
      refine ih n ⟨hm2, fun c hc => hm.2 c (by simp [hc])⟩ ⟨hn2, fun c hc => hn.2 c (by simp [hc])⟩ fun x => ?_
      by_cases hx : x = a
      · subst hx
        rw [Memory.read_of_unlisted m _ (unlisted hm1 (Nat.le_refl _)),
          Memory.read_of_unlisted n _ (unlisted hn1 (Nat.le_refl _))]
      · simpa [Memory.read, hx] using h x

end Sys2Proof.Machine
end

