-- ==== Sys2Proof/Laws/Ops.lean ====
section
/-! SUPPORT. What the operations over registers, memory, PC, the call stack and the fault latch do, one lemma each. -/

namespace Sys2Proof.Machine

variable (s : State)

/-! Registers -/

/-- A register read after a register write. -/
theorem State.getV_setV (x r : Reg) (u : Byte) : (s.setV x u).getV r = if r = x then u else s.getV r := by
  unfold State.getV State.setV
  simp only [Vector.getElem_set]
  by_cases h : r = x
  · simp [h]
  · have : ¬ x.toNat = r.toNat := fun e => h (BitVec.eq_of_toNat_eq e.symm)
    simp [h, this]

@[simp] theorem State.getV_setV_same (x : Reg) (u : Byte) : (s.setV x u).getV x = u := by simp [State.getV_setV]

/-- Result first, flag last: VF holds the flag even when it is the destination (10_state.md R13). -/
theorem State.getV_setVFlag (x r : Reg) (u f : Byte) :
    (s.setVFlag x u f).getV r = if r = vF then f else if r = x then u else s.getV r := by
  unfold State.setVFlag
  rw [State.getV_setV, State.getV_setV]

/-- Reading a register depends on the registers alone. -/
theorem State.getV_congr {s t : State} (h : t.v = s.v) (r : Reg) : t.getV r = s.getV r := by
  unfold State.getV; simp only [h]

theorem State.getV_setRegs (v : Vector Byte nregs) (r : Reg) : (s.setRegs v).getV r = v[r.toNat]'r.isLt := rfl

/-! Reads that an update does not reach -/

@[simp] theorem State.getV_writeBytes (a : Nat) (us : List Byte) (r : Reg) : (s.writeBytes a us).getV r = s.getV r := rfl
@[simp] theorem State.getV_setI (w : Word) (r : Reg) : (s.setI w).getV r = s.getV r := rfl
@[simp] theorem State.getV_setDt (u : Byte) (r : Reg) : (s.setDt u).getV r = s.getV r := rfl
@[simp] theorem State.getV_setSt (u : Byte) (r : Reg) : (s.setSt u).getV r = s.getV r := rfl
@[simp] theorem State.getV_setFb (fb : FrameBuffer) (r : Reg) : (s.setFb fb).getV r = s.getV r := rfl
@[simp] theorem State.getV_setKeys (ks : Vector Bool nkeys) (r : Reg) : (s.setKeys ks).getV r = s.getV r := rfl
@[simp] theorem State.getV_setStatus (q : Status) (r : Reg) : (s.setStatus q).getV r = s.getV r := rfl
@[simp] theorem State.getV_useRandom (r : Reg) : s.useRandom.getV r = s.getV r := rfl
@[simp] theorem State.getV_setPending (es : List Event) (r : Reg) : (s.setPending es).getV r = s.getV r := rfl
@[simp] theorem State.getV_setPc (w : Word) (r : Reg) : (s.setPc w).getV r = s.getV r := rfl
@[simp] theorem State.getV_advance (r : Reg) : s.advance.getV r = s.getV r := rfl
@[simp] theorem State.getV_push (w : Word) (h : s.sp.val < stackDepth) (r : Reg) : (s.push w h).getV r = s.getV r := rfl
@[simp] theorem State.getV_pop (r : Reg) : s.pop.getV r = s.getV r := rfl
@[simp] theorem State.getV_latch (f : Fault) (r : Reg) : (s.latch f).getV r = s.getV r := rfl
@[simp] theorem State.getV_skipIf (c : Bool) (r : Reg) : (s.skipIf c).getV r = s.getV r := by cases c <;> rfl

@[simp] theorem State.readByte_setV (x : Reg) (u : Byte) (c : Nat) : (s.setV x u).readByte c = s.readByte c := rfl
@[simp] theorem State.readByte_setRegs (v : Vector Byte nregs) (c : Nat) : (s.setRegs v).readByte c = s.readByte c := rfl
@[simp] theorem State.readByte_setVFlag (x : Reg) (f g : Byte) (c : Nat) : (s.setVFlag x f g).readByte c = s.readByte c := rfl
@[simp] theorem State.readByte_setI (w : Word) (c : Nat) : (s.setI w).readByte c = s.readByte c := rfl
@[simp] theorem State.readByte_setDt (u : Byte) (c : Nat) : (s.setDt u).readByte c = s.readByte c := rfl
@[simp] theorem State.readByte_setSt (u : Byte) (c : Nat) : (s.setSt u).readByte c = s.readByte c := rfl
@[simp] theorem State.readByte_setFb (fb : FrameBuffer) (c : Nat) : (s.setFb fb).readByte c = s.readByte c := rfl
@[simp] theorem State.readByte_setKeys (ks : Vector Bool nkeys) (c : Nat) : (s.setKeys ks).readByte c = s.readByte c := rfl
@[simp] theorem State.readByte_setStatus (q : Status) (c : Nat) : (s.setStatus q).readByte c = s.readByte c := rfl
@[simp] theorem State.readByte_useRandom (c : Nat) : s.useRandom.readByte c = s.readByte c := rfl
@[simp] theorem State.readByte_setPending (es : List Event) (c : Nat) : (s.setPending es).readByte c = s.readByte c := rfl
@[simp] theorem State.readByte_setPc (w : Word) (c : Nat) : (s.setPc w).readByte c = s.readByte c := rfl
@[simp] theorem State.readByte_advance (c : Nat) : s.advance.readByte c = s.readByte c := rfl
@[simp] theorem State.readByte_push (w : Word) (h : s.sp.val < stackDepth) (c : Nat) : (s.push w h).readByte c = s.readByte c := rfl
@[simp] theorem State.readByte_pop (c : Nat) : s.pop.readByte c = s.readByte c := rfl
@[simp] theorem State.readByte_latch (f : Fault) (c : Nat) : (s.latch f).readByte c = s.readByte c := rfl
@[simp] theorem State.readByte_skipIf (b : Bool) (c : Nat) : (s.skipIf b).readByte c = s.readByte c := by cases b <;> rfl

@[simp] theorem State.getV_reset (r : Reg) : State.reset.getV r = 0#8 := by simp [State.getV, State.reset]

/-! Memory -/

/-- Reading a byte depends on memory and the configured font alone. -/
theorem State.readByte_congr {s t : State} (hm : t.mem = s.mem) (hc : t.cfg = s.cfg) (a : Nat) :
    t.readByte a = s.readByte a := by
  unfold State.readByte; rw [hm, hc]

theorem State.readByte_writeBytes_outside (a b : Nat) (us : List Byte) (h : b < a ∨ a + us.length ≤ b) :
    (s.writeBytes a us).readByte b = s.readByte b := Memory.read_writeBytes_outside us s.mem a b h

theorem State.readByte_writeBytes_inside (a k : Nat) (us : List Byte) (hk : k < us.length) (hm : a + us.length ≤ memSize) :
    (s.writeBytes a us).readByte (a + k) = us[k] := Memory.read_writeBytes_inside us s.mem a k hk hm

/-- A byte read after Reset: the font byte in the font region, 0 elsewhere. -/
theorem State.readByte_of_mem_nil {s : State} (h : s.mem = []) (a : Nat) :
    s.readByte a = Memory.blank s.cfg.font a := by
  unfold State.readByte; rw [h]; rfl

theorem spanLeaves_iff (a n : Nat) : spanLeaves a n = true ↔ n ≥ 1 ∧ a + n > 4096 := by
  unfold spanLeaves memSize
  simp only [decide_eq_true_eq]
  omega

theorem spanLeaves_eq_false (a n : Nat) : spanLeaves a n = false ↔ n = 0 ∨ a + n ≤ 4096 := by
  rw [← Bool.not_eq_true, spanLeaves_iff]; omega

/-! Suppression, faults -/

/-- A suppressed instruction answers the state with PC advanced and nothing else changed. -/
theorem suppress_eq : suppress s = .next { s with pc := s.pc + 2#16 } := rfl

/-- Taking a fault answers the state with the latch set and nothing else changed. -/
theorem raise_eq (f : Fault) : raise f s = .next { s with fault := some f } := rfl

/-! Call stack -/

/-- The cell a push writes, and every other cell as before. -/
theorem State.push_stack_get (w : Word) (h : s.sp.val < stackDepth) (k : Nat) :
    (s.push w h).stack[k]? = if k = s.sp.val then some w else s.stack[k]? := by
  simp only [State.push_stack]
  rw [Vector.getElem?_set]
  by_cases hk : k = s.sp.val
  · subst hk; simp
  · have : ¬ s.sp.val = k := fun e => hk e.symm
    simp [hk, this]

/-- The newest live entry. -/
theorem State.top_eq (h : 0 < s.sp.val) : s.stack[s.sp.val - 1]? = some (s.top h) := by
  unfold State.top
  exact Vector.getElem?_eq_getElem _

end Sys2Proof.Machine
end

