-- ==== Sys2Proof/Laws/Operands.lean ====
section
/-! SUPPORT. What the operand forms do: the block of registers stored and loaded, the digits, the key a register names, and
the pixels a sprite flips. -/

namespace Sys2Proof.Machine

open Sys2Proof

variable (s : State)

/-- A table of `n` entries is left by the values from `n` on. -/
theorem tableLeaves_iff (n : Nat) (u : Byte) : tableLeaves n u = true ↔ n ≤ u.toNat := by simp [tableLeaves]

/-- Both tables have sixteen entries (20_memory.md R46). -/
theorem tableLeaves_glyphs_iff (u : Byte) : tableLeaves glyphCount u = true ↔ u.toNat > 15 := tableLeaves_iff ..

theorem tableLeaves_keys_iff (u : Byte) : tableLeaves nkeys u = true ↔ u.toNat > 15 := tableLeaves_iff ..

theorem State.key_eq (k : Nat) : s.key k = (s.keys[k]?).getD false := by
  unfold State.key
  split
  next h => simp [h]
  next h => simp [h]

/-! Blocks of registers -/

theorem blockRegs_length (x : Reg) : (blockRegs x s).length = x.toNat + 1 := by
  have := x.isLt
  simp only [blockRegs, blockLen, List.length_take, Vector.length_toList, nregs]
  omega

theorem blockRegs_get (x r : Reg) (h : r.toNat < (blockRegs x s).length) : (blockRegs x s)[r.toNat] = s.getV r := by
  simp [blockRegs, State.getV]

/-- A block load writes the first `n` registers from memory and leaves the others. -/
theorem loadRegs_get (a n k : Nat) (hk : k < nregs) :
    (loadRegs s a n)[k] = if k < n then s.readByte (a + k) else s.v[k] := by
  induction n with
  | zero => simp [loadRegs]
  | succ n ih =>
    rw [loadRegs, Vector.getElem_setIfInBounds]
    by_cases h : n = k
    · subst h; simp
    · simp only [h, if_false, ih]
      by_cases hkn : k < n
      · rw [if_pos hkn, if_pos (by omega)]
      · rw [if_neg hkn, if_neg (by omega)]

theorem bcdDigits_length (u : Byte) : (bcdDigits u).length = 3 := rfl

/-- The digits as numbers. -/
theorem bcdDigits_toNat (u : Byte) :
    (bcdDigits u).map BitVec.toNat = [u.toNat / 100, u.toNat / 10 % 10, u.toNat % 10] := by
  have := u.isLt
  simp only [bcdDigits, List.map_cons, List.map_nil, BitVec.toNat_ofNat]
  congr 1
  · omega
  · congr 1
    · omega
    · congr 1
      omega

/-! Pixels -/

theorem FrameBuffer.pixel_setPixel (fb : FrameBuffer) (x px : Fin fbW) (y py : Fin fbH) (b : Bool) :
    FrameBuffer.pixel (FrameBuffer.setPixel fb x y b) px py = if px = x ∧ py = y then b else FrameBuffer.pixel fb px py := by
  unfold FrameBuffer.pixel FrameBuffer.setPixel
  simp only [Vector.getElem_set]
  by_cases hy : y.val = py.val
  · have hy' : py = y := Fin.ext hy.symm
    subst hy'
    by_cases hx : x.val = px.val
    · have hx' : px = x := Fin.ext hx.symm
      simp [hx']
    · have hx' : ¬ px = x := fun e => hx (by rw [e])
      simp [hx, hx']
  · have hy' : ¬ py = y := fun e => hy (by rw [e])
    simp [hy, hy']

theorem FrameBuffer.ext_pixel {f g : FrameBuffer} (h : ∀ px py, FrameBuffer.pixel f px py = FrameBuffer.pixel g px py) :
    f = g := by
  apply Vector.ext
  intro y hy
  apply Vector.ext
  intro x hx
  exact h ⟨x, hx⟩ ⟨y, hy⟩

theorem clearFb_pixel (px : Fin fbW) (py : Fin fbH) : FrameBuffer.pixel clearFb px py = false := by
  simp [FrameBuffer.pixel, clearFb]

/-! A sprite as the list of the cells its 1 bits land on -/

/-- The cells a sprite's 1 bits land on, in drawing order; a clipped bit and a 0 bit give no cell. -/
def rowCells (edge : DrawEdge) (x0 y0 r : Nat) (b : Byte) : List (Fin fbW × Fin fbH) :=
  (List.range 8).filterMap (fun c => if b.getLsbD (7 - c) then targetPixel edge (x0 + c) (y0 + r) else none)

def spriteCells (edge : DrawEdge) (x0 y0 : Nat) : Nat → List Byte → List (Fin fbW × Fin fbH)
  | _, [] => []
  | r, b :: bs => rowCells edge x0 y0 r b ++ spriteCells edge x0 y0 (r + 1) bs

/-- Flip one cell, colliding if it was on. -/
def flipCell (acc : FrameBuffer × Bool) (p : Fin fbW × Fin fbH) : FrameBuffer × Bool :=
  (FrameBuffer.setPixel acc.1 p.1 p.2 (!FrameBuffer.pixel acc.1 p.1 p.2), acc.2 || FrameBuffer.pixel acc.1 p.1 p.2)

theorem drawBit_eq_flip (edge : DrawEdge) (x0 y0 r : Nat) (b : Byte) (acc : FrameBuffer × Bool) (c : Nat) :
    drawBit edge x0 y0 r b acc c =
      (if b.getLsbD (7 - c) then targetPixel edge (x0 + c) (y0 + r) else none).elim acc (flipCell acc) := by
  unfold drawBit
  cases targetPixel edge (x0 + c) (y0 + r) with
  | none => cases b.getLsbD (7 - c) <;> rfl
  | some p => cases b.getLsbD (7 - c) <;> rfl

theorem foldl_elim_eq_foldl_filterMap {α β γ : Type} (f : α → Option β) (g : γ → β → γ) (l : List α) (acc : γ) :
    l.foldl (fun acc c => (f c).elim acc (g acc)) acc = (l.filterMap f).foldl g acc := by
  induction l generalizing acc with
  | nil => rfl
  | cons a l ih =>
    simp only [List.foldl_cons, List.filterMap_cons]
    cases f a with
    | none => exact ih acc
    | some p => exact ih (g acc p)

theorem drawRow_eq_foldl (edge : DrawEdge) (x0 y0 r : Nat) (b : Byte) (acc : FrameBuffer × Bool) :
    drawRow edge x0 y0 r b acc = (rowCells edge x0 y0 r b).foldl flipCell acc := by
  unfold drawRow rowCells
  rw [← foldl_elim_eq_foldl_filterMap]
  congr 1
  funext acc c
  exact drawBit_eq_flip edge x0 y0 r b acc c

theorem drawRows_eq_foldl (edge : DrawEdge) (x0 y0 r : Nat) (bs : List Byte) (acc : FrameBuffer × Bool) :
    drawRows edge x0 y0 r bs acc = (spriteCells edge x0 y0 r bs).foldl flipCell acc := by
  induction bs generalizing r acc with
  | nil => rfl
  | cons b bs ih => rw [drawRows, spriteCells, List.foldl_append, drawRow_eq_foldl, ih]

/-- Flipping distinct cells flips exactly those, and collides iff one of them was on. -/
theorem foldl_flipCell (l : List (Fin fbW × Fin fbH)) (h : l.Nodup) (acc : FrameBuffer × Bool) :
    (∀ px py, FrameBuffer.pixel (l.foldl flipCell acc).1 px py =
      (FrameBuffer.pixel acc.1 px py ^^ decide ((px, py) ∈ l))) ∧
    (l.foldl flipCell acc).2 = (acc.2 || l.any (fun p => FrameBuffer.pixel acc.1 p.1 p.2)) := by
  induction l generalizing acc with
  | nil => simp
  | cons p l ih =>
    obtain ⟨hp, hl⟩ := List.nodup_cons.mp h
    obtain ⟨ih1, ih2⟩ := ih hl (flipCell acc p)
    refine ⟨fun px py => ?_, ?_⟩
    · rw [List.foldl_cons, ih1]
      simp only [flipCell, FrameBuffer.pixel_setPixel]
      by_cases hpp : (px, py) = p
      · subst hpp; simp [hp]
      · have : ¬ (px = p.1 ∧ py = p.2) := fun e => hpp (Prod.ext e.1 e.2)
        simp [this, hpp]
    · rw [List.foldl_cons, ih2]
      simp only [flipCell, List.any_cons, Bool.or_assoc]
      congr 2
      apply Bool.eq_iff_iff.mpr
      simp only [List.any_eq_true]
      refine exists_congr fun q => and_congr_right fun hq => ?_
      have : ¬ (q.1 = p.1 ∧ q.2 = p.2) := fun e => hp (by rwa [← show q = p from Prod.ext e.1 e.2])
      rw [FrameBuffer.pixel_setPixel, if_neg this]

theorem mem_rowCells {edge : DrawEdge} {x0 y0 r : Nat} {b : Byte} {p : Fin fbW × Fin fbH} :
    p ∈ rowCells edge x0 y0 r b ↔
      ∃ c, c < 8 ∧ b.getLsbD (7 - c) = true ∧ targetPixel edge (x0 + c) (y0 + r) = some p := by
  simp only [rowCells, List.mem_filterMap, List.mem_range]
  refine exists_congr fun c => and_congr_right fun _ => ?_
  cases b.getLsbD (7 - c) <;> simp

theorem mem_spriteCells {edge : DrawEdge} {x0 y0 r : Nat} {bs : List Byte} {p : Fin fbW × Fin fbH} :
    p ∈ spriteCells edge x0 y0 r bs ↔
      ∃ k c, ∃ h : k < bs.length, c < 8 ∧ bs[k].getLsbD (7 - c) = true ∧
        targetPixel edge (x0 + c) (y0 + (r + k)) = some p := by
  induction bs generalizing r with
  | nil => simp [spriteCells]
  | cons b bs ih =>
    rw [spriteCells, List.mem_append, mem_rowCells, ih]
    constructor
    · rintro (⟨c, hc, hb, ht⟩ | ⟨k, c, hk, hc, hb, ht⟩)
      · exact ⟨0, c, by simp, hc, by simpa using hb, by simpa using ht⟩
      · exact ⟨k + 1, c, by simpa using hk, hc, by simpa using hb, by rw [← ht]; congr 1; omega⟩
    · rintro ⟨k, c, hk, hc, hb, ht⟩
      cases k with
      | zero => exact .inl ⟨c, hc, by simpa using hb, by simpa using ht⟩
      | succ k => exact .inr ⟨k, c, by simpa using hk, hc, by simpa using hb, by rw [← ht]; congr 1; omega⟩

/-- Two bits of a sprite at most 15 rows high that land on the same cell are the same bit (43_display.md R141: within one DRW no
pixel is visited twice). -/
theorem targetPixel_inj {edge : DrawEdge} {x0 y0 c d r q : Nat} {p : Fin fbW × Fin fbH} (hc : c < 8) (hd : d < 8)
    (hr : r < 32) (hq : q < 32) (h1 : targetPixel edge (x0 + c) (y0 + r) = some p)
    (h2 : targetPixel edge (x0 + d) (y0 + q) = some p) : c = d ∧ r = q := by
  cases edge with
  | clip =>
    unfold targetPixel at h1 h2
    simp only at h1 h2
    split at h1
    · split at h2
      · cases h1
        simp only [Option.some.injEq, Prod.mk.injEq, Fin.mk.injEq] at h2
        omega
      · cases h2
    · cases h1
  | wrap =>
    unfold targetPixel at h1 h2
    simp only [fbW, fbH] at h1 h2
    cases h1
    simp only [Option.some.injEq, Prod.mk.injEq, Fin.mk.injEq] at h2
    omega

theorem rowCells_nodup (edge : DrawEdge) (x0 y0 r : Nat) (hr : r < 32) (b : Byte) : (rowCells edge x0 y0 r b).Nodup := by
  unfold rowCells
  rw [List.Nodup, List.pairwise_filterMap]
  refine List.Pairwise.imp_of_mem (fun {c d} hc hd hcd => ?_) List.nodup_range
  intro p hp q hq hpq
  subst hpq
  simp only [List.mem_range] at hc hd
  cases hbc : b.getLsbD (7 - c) <;> cases hbd : b.getLsbD (7 - d) <;> simp [hbc, hbd] at hp hq
  exact hcd (targetPixel_inj hc hd hr hr hp hq).1

theorem spriteCells_nodup (edge : DrawEdge) (x0 y0 r : Nat) (bs : List Byte) (h : r + bs.length ≤ 32) :
    (spriteCells edge x0 y0 r bs).Nodup := by
  induction bs generalizing r with
  | nil => exact List.nodup_nil
  | cons b bs ih =>
    simp only [List.length_cons] at h
    rw [spriteCells, List.nodup_append]
    refine ⟨rowCells_nodup edge x0 y0 r (by omega) b, ih (r + 1) (by omega), fun p hp q hq hpq => ?_⟩
    subst hpq
    obtain ⟨c, hc, -, h1⟩ := mem_rowCells.mp hp
    obtain ⟨k, d, hk, hd, -, h2⟩ := mem_spriteCells.mp hq
    have := (targetPixel_inj hc hd (by omega) (by omega) h1 h2).2
    omega

theorem State.readBytes_length (a n : Nat) : (s.readBytes a n).length = n := by simp [State.readBytes]

theorem State.readBytes_get (a n k : Nat) (h : k < (s.readBytes a n).length) : (s.readBytes a n)[k] = s.readByte (a + k) := by
  simp [State.readBytes]

/-- The cells DRW flips (43_display.md R141). -/
def drawnCells (x y : Reg) (n : Nibble) (s : State) : List (Fin fbW × Fin fbH) :=
  spriteCells s.cfg.drawEdge ((s.getV x).toNat % fbW) ((s.getV y).toNat % fbH) 0 (s.readBytes s.i.toNat n.toNat)

/-- DRW flips exactly the cells its 1 bits land on, and collides iff one of them was on. -/
theorem drawSprite_spec (x y : Reg) (n : Nibble) :
    (∀ px py, FrameBuffer.pixel (drawSprite x y n s).1 px py =
      (FrameBuffer.pixel s.fb px py ^^ decide ((px, py) ∈ drawnCells x y n s))) ∧
    (drawSprite x y n s).2 = (drawnCells x y n s).any (fun p => FrameBuffer.pixel s.fb p.1 p.2) := by
  have hn := n.isLt
  have := foldl_flipCell (drawnCells x y n s)
    (spriteCells_nodup _ _ _ 0 _ (by rw [State.readBytes_length]; omega)) (s.fb, false)
  unfold drawSprite
  rw [drawRows_eq_foldl]
  simpa [drawnCells] using this

end Sys2Proof.Machine
end

