-- ==== Sys2Proof/Laws/Step.lean ====
section
/-! SUPPORT. What a cycle, an event and a step can do, said once: every claim over steps is a case analysis on these. -/

namespace Sys2Proof.Machine

open Sys2Proof

variable {s t : State}

theorem State.pcLeaves_iff (s : State) : s.pcLeaves = true ↔ s.pc.toNat > 0x0FFE := by
  simp [State.pcLeaves, lastFetch, memSize, instrBytes]

theorem State.runs_iff (s : State) : s.runs ↔ s.fault = none ∧ s.status = .running ∧ s.pcLeaves = false := by
  unfold State.runs
  rw [← Bool.not_eq_true, State.pcLeaves_iff]
  simp [lastFetch, memSize, instrBytes]

/-- A running core without a fault and with PC inside memory executes what it fetches. -/
theorem cycle_of_runs (h : s.runs) : cycle s = execDecoded s.fetched s := by
  obtain ⟨hf, hq, hp⟩ := (State.runs_iff s).mp h
  simp [cycle, hf, hq, hp]

theorem cycle_of_fault {f : Fault} (h : s.fault = some f) : cycle s = .fault f := by simp [cycle, h]

theorem cycle_of_waiting {x : Reg} (hf : s.fault = none) (hq : s.status = .waitingForKey x) : cycle s = .next s := by
  simp [cycle, hf, hq]

theorem cycle_of_pcLeaves (hf : s.fault = none) (hq : s.status = .running) (hp : s.pcLeaves = true) :
    cycle s = .next (s.latch .pcOutOfRange) := by
  simp [cycle, hf, hq, hp, raise]

/-- A cycle that answers a next state idled, latched PcOutOfRange, ran the instruction it fetched, or passed over an unknown
word. -/
theorem cycle_cases (h : cycle s = .next t) :
    (s.fault = none ∧ (∃ x, s.status = .waitingForKey x) ∧ t = s) ∨
    (s.fault = none ∧ s.status = .running ∧ s.pcLeaves = true ∧ t = s.latch .pcOutOfRange) ∨
    (∃ i, s.runs ∧ s.fetched = .instr i ∧ exec i s = .next t) ∨
    (∃ w, s.runs ∧ s.fetched = .unknown w ∧ t = s.advance) := by
  cases hf : s.fault with
  | some f => rw [cycle_of_fault hf] at h; cases h
  | none =>
    cases hq : s.status with
    | waitingForKey x => rw [cycle_of_waiting hf hq] at h; cases h; exact .inl ⟨rfl, ⟨x, rfl⟩, rfl⟩
    | running =>
      cases hp : s.pcLeaves with
      | true => rw [cycle_of_pcLeaves hf hq hp] at h; cases h; exact .inr (.inl ⟨rfl, rfl, rfl, rfl⟩)
      | false =>
        have hr : s.runs := (State.runs_iff s).mpr ⟨hf, hq, hp⟩
        rw [cycle_of_runs hr] at h
        cases hd : s.fetched with
        | instr i => rw [hd] at h; exact .inr (.inr (.inl ⟨i, hr, rfl, h⟩))
        | unknown w => rw [hd] at h; cases h; exact .inr (.inr (.inr ⟨w, hr, rfl, rfl⟩))

/-- A cycle only ever stops by returning a latched fault, or by a fault of the instruction's meaning. -/
theorem goOn_next {o : Host.Outcome State Fault Refusal} (h : goOn s o = .next t) :
    o = .next t ∨ ((∃ f, o = .fault f) ∧ t = s) := by
  cases o with
  | next u => exact .inl h
  | fault f => cases h; exact .inr ⟨⟨f, rfl⟩, rfl⟩
  | refused r => cases h

/-- A step that answers a next state was a cycle with an empty agenda, or the event at the head of the agenda, which then left
the agenda. -/
theorem step_cases (h : step s = .next t) :
    (s.pending = [] ∧ cycle s = .next t) ∨
    (∃ es, s.pending = .step :: es ∧ cycle (s.setPending es) = .next t) ∨
    (∃ es f, s.pending = .step :: es ∧ cycle (s.setPending es) = .fault f ∧ t = s.setPending es) ∨
    (∃ es, s.pending = .reset :: es ∧ t = (s.setPending es).resetEvent) ∨
    (∃ es bytes, s.pending = .load bytes :: es ∧ t = (s.setPending es).load bytes) ∨
    (∃ es, s.pending = .tick :: es ∧ t = (s.setPending es).tick) ∨
    (∃ es k pressed, s.pending = .keySet k pressed :: es ∧ t = (s.setPending es).keySet k pressed) ∨
    (∃ es, (s.pending = .framebufferSnapshot :: es ∨ s.pending = .debugSnapshot :: es) ∧ t = s.setPending es) := by
  unfold step nextEvent at h
  cases hp : s.pending with
  | nil => rw [hp] at h; exact .inl ⟨rfl, h⟩
  | cons e es =>
    rw [hp] at h
    right
    rcases goOn_next h with h | ⟨⟨f, hf⟩, rfl⟩
    · cases e with
      | step => exact .inl ⟨es, rfl, h⟩
      | reset => cases h; exact .inr (.inr (.inl ⟨es, rfl, rfl⟩))
      | load bytes => cases h; exact .inr (.inr (.inr (.inl ⟨es, bytes, rfl, rfl⟩)))
      | tick => cases h; exact .inr (.inr (.inr (.inr (.inl ⟨es, rfl, rfl⟩))))
      | keySet k pressed => cases h; exact .inr (.inr (.inr (.inr (.inr (.inl ⟨es, k, pressed, rfl, rfl⟩)))))
      | framebufferSnapshot => cases h; exact .inr (.inr (.inr (.inr (.inr (.inr ⟨es, .inl rfl, rfl⟩)))))
      | debugSnapshot => cases h; exact .inr (.inr (.inr (.inr (.inr (.inr ⟨es, .inr rfl, rfl⟩)))))
    · cases e with
      | step => exact .inr (.inl ⟨es, f, rfl, hf, rfl⟩)
      | reset | load | tick | keySet | framebufferSnapshot | debugSnapshot => cases hf

/-- A load changes memory alone, by the image if it fits. -/
theorem State.load_eq (s : State) (bytes : List Byte) :
    s.load bytes = if bytes.length > progMax then s else s.writeBytes progBase bytes := rfl

/-- KeySet: an index outside the latch changes nothing; a flag that rises while the core waits wakes it; else only the flag
changes. -/
theorem State.keySet_cases (s : State) (k : Nat) (pressed : Bool) :
    (nkeys ≤ k ∧ s.keySet k pressed = s) ∨
    (∃ h : k < nkeys, ∃ x, pressed = true ∧ s.keys[k] = false ∧ s.status = .waitingForKey x ∧
      s.keySet k pressed =
        ((s.setKeys (s.keys.set k pressed h)).setV x (BitVec.ofNat 8 k)).setStatus .running) ∨
    (∃ h : k < nkeys, (pressed = false ∨ s.keys[k] = true ∨ s.status = .running) ∧
      s.keySet k pressed = s.setKeys (s.keys.set k pressed h)) := by
  by_cases h : k < nkeys
  · right
    have hk : s.key k = s.keys[k] := by simp [State.key, h]
    cases hq : s.status with
    | running => right; refine ⟨h, .inr (.inr rfl), ?_⟩; simp [State.keySet, h, hq]
    | waitingForKey x =>
      cases hp : pressed with
      | false => right; refine ⟨h, .inl rfl, ?_⟩; simp [State.keySet, h]
      | true =>
        cases hs : s.keys[k] with
        | true => right; refine ⟨h, .inr (.inl hs), ?_⟩; simp [State.keySet, h, hk, hs]
        | false => left; refine ⟨h, x, rfl, hs, rfl, ?_⟩; simp [State.keySet, h, hk, hs, hq]
  · left; exact ⟨by omega, by simp [State.keySet, h]⟩

/-- What no instruction touches: the configuration, the key latch and the agenda. -/
theorem exec_keeps {i : Instr} (h : exec i s = .next t) : t.cfg = s.cfg ∧ t.keys = s.keys ∧ t.pending = s.pending := by
  cases i with
  | ret => simp only [exec, execRet] at h; split at h <;> cases h <;> exact ⟨rfl, rfl, rfl⟩
  | call nnn => simp only [exec, execCall] at h; split at h <;> cases h <;> exact ⟨rfl, rfl, rfl⟩
  | ldFVx x => simp only [exec, execLdFVx] at h; split at h <;> cases h <;> exact ⟨rfl, rfl, rfl⟩
  | ldBVx x => simp only [exec, execLdBVx] at h; split at h <;> cases h <;> exact ⟨rfl, rfl, rfl⟩
  | ldMemVx x => simp only [exec, execLdMemVx] at h; split at h <;> cases h <;> exact ⟨rfl, rfl, rfl⟩
  | ldVxMem x => simp only [exec, execLdVxMem] at h; split at h <;> cases h <;> exact ⟨rfl, rfl, rfl⟩
  | drwVxVyN x y n => simp only [exec, execDrwVxVyN] at h; split at h <;> cases h <;> exact ⟨rfl, rfl, rfl⟩
  | skpVx x => simp only [exec, execSkpVx] at h; split at h <;> cases h <;> simp
  | sknpVx x => simp only [exec, execSknpVx] at h; split at h <;> cases h <;> simp
  | seVxNN | sneVxNN | seVxVy | sneVxVy => cases h; simp
  | cls | jp | ldVxNN | addVxNN | ldVxVy | orVxVy | andVxVy | xorVxVy | addVxVy | subVxVy | shrVxVy | subnVxVy | shlVxVy
  | ldINNN | jpV0NNN | rndVxNN | ldVxDT | ldVxK | ldDTVx | ldSTVx | addIVx => cases h; exact ⟨rfl, rfl, rfl⟩

end Sys2Proof.Machine
end

