-- ==== Sys2Proof/Laws/Outputs.lean ====
section
/-! SUPPORT. What the debug snapshot shows of memory. -/

namespace Sys2Proof.Machine

variable (s : State)

/-- The snapshot holds every byte of memory, in address order. -/
theorem State.debugView_mem (a : Nat) : s.debugView.mem[a]? = if a < 4096 then some (s.readByte a) else none := by
  simp only [State.debugView]
  split
  next h => rw [Vector.getElem?_eq_getElem h, Vector.getElem_ofFn]
  next h => exact Vector.getElem?_eq_none (Nat.le_of_not_lt h)

/-- Inside memory the snapshot's word at PC is the fetched word; outside there is none. -/
theorem State.debugView_wordAtPc :
    s.debugView.wordAtPc = if s.pc.toNat ≤ 0x0FFE then some s.fetchWord else none := by
  unfold DebugView.wordAtPc
  rw [show s.debugView.pc = s.pc from rfl, State.debugView_mem, State.debugView_mem]
  by_cases h : s.pc.toNat ≤ 0x0FFE
  · rw [if_pos (by omega), if_pos (by omega), if_pos h]
    rfl
  · rw [if_neg (show ¬ s.pc.toNat + 1 < 4096 by omega), if_neg h]
    split
    next h => cases h
    next => rfl

end Sys2Proof.Machine
end

