-- ==== Sys2Proof/Laws/PerInstr.lean ====
section
/-! SUPPORT. A statement about every instruction as syntax, one lemma per constructor: its operands fit their fields, and its
word lies in its row of the table (30_encoding.md R61, R62, R64). -/

namespace Sys2Proof.Laws.EncodingInRow

open Sys2Proof

/-- The instruction is well formed, and its word matches its row under the row's mask. -/
def Statement (i : Instr) : Prop := i.wf = true ∧ i.matchesWord (encode i) = true

theorem fits {n : Nat} (b : BitVec n) : fieldFits (b.toNat, n) = true := by simp [fieldFits, b.isLt]

theorem addr (op : BitVec 4) (nnn : Addr) : encodeAddr op nnn &&& 0xF000#16 = encodeAddr op 0#12 := by
  rw [and_F000, fieldOp_encodeAddr]

theorem xnn (op : BitVec 4) (x : Reg) (nn : Byte) : encodeXNN op x nn &&& 0xF000#16 = encodeAddr op 0#12 := by
  rw [and_F000, fieldOp_encodeXNN]

theorem xyn (op : BitVec 4) (x y : Reg) (n : Nibble) : encodeXYN op x y n &&& 0xF000#16 = encodeAddr op 0#12 := by
  rw [and_F000, fieldOp_encodeXYN]

theorem xys (op : BitVec 4) (x y : Reg) (n : Nibble) :
    encodeXYN op x y n &&& 0xF00F#16 = encodeXYN op 0#4 0#4 n := by
  rw [and_F00F, fieldOp_encodeXYN, fieldN_encodeXYN]

theorem xss (op : BitVec 4) (x : Reg) (nn : Byte) : encodeXNN op x nn &&& 0xF0FF#16 = encodeXNN op 0#4 nn := by
  rw [and_F0FF, fieldOp_encodeXNN, fieldNN_encodeXNN]

/-- The word matches when masking it leaves the row's match. -/
theorem inRow {i : Instr} {w : Word} (h : encode i &&& i.row.1 = w) (hw : w = i.row.2) : i.matchesWord (encode i) = true := by
  simp [Instr.matchesWord, h, hw]

theorem cls : Statement .cls := ⟨rfl, by decide⟩
theorem ret : Statement .ret := ⟨rfl, by decide⟩
theorem jp (nnn : Addr) : Statement (.jp nnn) := ⟨by simp [Instr.wf, Instr.fields, fits], inRow (addr ..) (by rfl)⟩
theorem call (nnn : Addr) : Statement (.call nnn) := ⟨by simp [Instr.wf, Instr.fields, fits], inRow (addr ..) (by rfl)⟩
theorem seVxNN (x : Reg) (nn : Byte) : Statement (.seVxNN x nn) := ⟨by simp [Instr.wf, Instr.fields, fits], inRow (xnn ..) (by rfl)⟩
theorem sneVxNN (x : Reg) (nn : Byte) : Statement (.sneVxNN x nn) := ⟨by simp [Instr.wf, Instr.fields, fits], inRow (xnn ..) (by rfl)⟩
theorem seVxVy (x : Reg) (y : Reg) : Statement (.seVxVy x y) := ⟨by simp [Instr.wf, Instr.fields, fits], inRow (xys ..) (by rfl)⟩
theorem ldVxNN (x : Reg) (nn : Byte) : Statement (.ldVxNN x nn) := ⟨by simp [Instr.wf, Instr.fields, fits], inRow (xnn ..) (by rfl)⟩
theorem addVxNN (x : Reg) (nn : Byte) : Statement (.addVxNN x nn) := ⟨by simp [Instr.wf, Instr.fields, fits], inRow (xnn ..) (by rfl)⟩
theorem ldVxVy (x : Reg) (y : Reg) : Statement (.ldVxVy x y) := ⟨by simp [Instr.wf, Instr.fields, fits], inRow (xys ..) (by rfl)⟩
theorem orVxVy (x : Reg) (y : Reg) : Statement (.orVxVy x y) := ⟨by simp [Instr.wf, Instr.fields, fits], inRow (xys ..) (by rfl)⟩
theorem andVxVy (x : Reg) (y : Reg) : Statement (.andVxVy x y) := ⟨by simp [Instr.wf, Instr.fields, fits], inRow (xys ..) (by rfl)⟩
theorem xorVxVy (x : Reg) (y : Reg) : Statement (.xorVxVy x y) := ⟨by simp [Instr.wf, Instr.fields, fits], inRow (xys ..) (by rfl)⟩
theorem addVxVy (x : Reg) (y : Reg) : Statement (.addVxVy x y) := ⟨by simp [Instr.wf, Instr.fields, fits], inRow (xys ..) (by rfl)⟩
theorem subVxVy (x : Reg) (y : Reg) : Statement (.subVxVy x y) := ⟨by simp [Instr.wf, Instr.fields, fits], inRow (xys ..) (by rfl)⟩
theorem shrVxVy (x : Reg) (y : Reg) : Statement (.shrVxVy x y) := ⟨by simp [Instr.wf, Instr.fields, fits], inRow (xys ..) (by rfl)⟩
theorem subnVxVy (x : Reg) (y : Reg) : Statement (.subnVxVy x y) := ⟨by simp [Instr.wf, Instr.fields, fits], inRow (xys ..) (by rfl)⟩
theorem shlVxVy (x : Reg) (y : Reg) : Statement (.shlVxVy x y) := ⟨by simp [Instr.wf, Instr.fields, fits], inRow (xys ..) (by rfl)⟩
theorem sneVxVy (x : Reg) (y : Reg) : Statement (.sneVxVy x y) := ⟨by simp [Instr.wf, Instr.fields, fits], inRow (xys ..) (by rfl)⟩
theorem ldINNN (nnn : Addr) : Statement (.ldINNN nnn) := ⟨by simp [Instr.wf, Instr.fields, fits], inRow (addr ..) (by rfl)⟩
theorem jpV0NNN (nnn : Addr) : Statement (.jpV0NNN nnn) := ⟨by simp [Instr.wf, Instr.fields, fits], inRow (addr ..) (by rfl)⟩
theorem rndVxNN (x : Reg) (nn : Byte) : Statement (.rndVxNN x nn) := ⟨by simp [Instr.wf, Instr.fields, fits], inRow (xnn ..) (by rfl)⟩
theorem drwVxVyN (x : Reg) (y : Reg) (n : Nibble) : Statement (.drwVxVyN x y n) := ⟨by simp [Instr.wf, Instr.fields, fits], inRow (xyn ..) (by rfl)⟩
theorem skpVx (x : Reg) : Statement (.skpVx x) := ⟨by simp [Instr.wf, Instr.fields, fits], inRow (xss ..) (by rfl)⟩
theorem sknpVx (x : Reg) : Statement (.sknpVx x) := ⟨by simp [Instr.wf, Instr.fields, fits], inRow (xss ..) (by rfl)⟩
theorem ldVxDT (x : Reg) : Statement (.ldVxDT x) := ⟨by simp [Instr.wf, Instr.fields, fits], inRow (xss ..) (by rfl)⟩
theorem ldVxK (x : Reg) : Statement (.ldVxK x) := ⟨by simp [Instr.wf, Instr.fields, fits], inRow (xss ..) (by rfl)⟩
theorem ldDTVx (x : Reg) : Statement (.ldDTVx x) := ⟨by simp [Instr.wf, Instr.fields, fits], inRow (xss ..) (by rfl)⟩
theorem ldSTVx (x : Reg) : Statement (.ldSTVx x) := ⟨by simp [Instr.wf, Instr.fields, fits], inRow (xss ..) (by rfl)⟩
theorem addIVx (x : Reg) : Statement (.addIVx x) := ⟨by simp [Instr.wf, Instr.fields, fits], inRow (xss ..) (by rfl)⟩
theorem ldFVx (x : Reg) : Statement (.ldFVx x) := ⟨by simp [Instr.wf, Instr.fields, fits], inRow (xss ..) (by rfl)⟩
theorem ldBVx (x : Reg) : Statement (.ldBVx x) := ⟨by simp [Instr.wf, Instr.fields, fits], inRow (xss ..) (by rfl)⟩
theorem ldMemVx (x : Reg) : Statement (.ldMemVx x) := ⟨by simp [Instr.wf, Instr.fields, fits], inRow (xss ..) (by rfl)⟩
theorem ldVxMem (x : Reg) : Statement (.ldVxMem x) := ⟨by simp [Instr.wf, Instr.fields, fits], inRow (xss ..) (by rfl)⟩

end Sys2Proof.Laws.EncodingInRow
end

