-- ==== Sys2Proof/Tests/Slice0.lean ====
section
/-! SUPPORT. The model's own tests: the checks of WellFormed, a word of each encoding, one or two steps per instruction with
results from 95_test_vectors.md (the vector stands in the comment), the events, and a witness for every obligation that has
hypotheses. -/

namespace Sys2Proof.Tests

open Sys2Proof Sys2Proof.Machine

/-! Well-formedness -/

/-- An operand too wide for its field is refused: register number 16 in 4 bits. -/
theorem test_register_sixteen_refused : fieldFits (16, 4) = false := by decide

/-- An immediate of 256 does not fit 8 bits, an address of 4096 does not fit 12. -/
theorem test_wide_immediates_refused : fieldFits (256, 8) = false ∧ fieldFits (4096, 12) = false := by decide

theorem test_widest_operands_pass :
    (Instr.drwVxVyN 0xF#4 0xF#4 0xF#4).wf = true ∧ (Instr.call 0xFFF#12).wf = true ∧ (Instr.rndVxNN 0xF#4 0xFF#8).wf = true := by
  decide

/-- The check on an instruction is the check on all its fields: one bad field among good ones is refused. -/
theorem test_one_bad_field_refused : [(1, 4), (300, 8)].all fieldFits = false := by decide

/-- A font that does not begin with the source's glyph 0 is refused (20_memory.md R44). -/
theorem test_wrong_glyph_zero_refused :
    ({ defaultConfig with font := defaultFont.set 1 0x91#8 } : Config).wf = false := by decide

/-- The pixels of glyphs 1 to F are free (D10). -/
theorem test_other_glyphs_free :
    defaultConfig.wf = true ∧ ({ defaultConfig with font := defaultFont.set 5 0xF0#8 } : Config).wf = true := by decide

/-- Bits 3..0 of every font byte are zero, the last one's too (20_memory.md R44). -/
theorem test_low_font_bits_refused :
    ({ defaultConfig with font := defaultFont.set 5 0xFF#8 } : Config).wf = false ∧
    ({ defaultConfig with font := defaultFont.set 79 0x81#8 } : Config).wf = false := by decide

/-! Decoding: words written out from the table of 30_encoding.md R64, field by field (OP, X, Y, N or NN or NNN) -/

theorem test_decode_whole_words :
    decode (0b0000_0000_1110_0000#16) = .instr .cls ∧ decode (0b0000_0000_1110_1110#16) = .instr .ret := by decide

theorem test_decode_addresses :
    decode (0b0001_1010_1011_1100#16) = .instr (.jp 0xABC#12) ∧
    decode (0b0010_1111_1111_1111#16) = .instr (.call 0xFFF#12) ∧
    decode (0b1010_1111_1111_1110#16) = .instr (.ldINNN 0xFFE#12) ∧
    decode (0b1011_0010_0011_0100#16) = .instr (.jpV0NNN 0x234#12) := by decide

theorem test_decode_immediates :
    decode (0b0011_1010_0111_1111#16) = .instr (.seVxNN 0xA#4 0x7F#8) ∧
    decode (0b0100_0011_0010_1010#16) = .instr (.sneVxNN 0x3#4 0x2A#8) ∧
    decode (0b0110_0001_1010_1011#16) = .instr (.ldVxNN 0x1#4 0xAB#8) ∧
    decode (0b0111_1110_1000_0001#16) = .instr (.addVxNN 0xE#4 0x81#8) ∧
    decode (0b1100_0011_0000_1111#16) = .instr (.rndVxNN 0x3#4 0x0F#8) := by decide

theorem test_decode_register_pairs :
    decode (0b0101_1010_1011_0000#16) = .instr (.seVxVy 0xA#4 0xB#4) ∧
    decode (0b1001_1010_1011_0000#16) = .instr (.sneVxVy 0xA#4 0xB#4) ∧
    decode (0b1000_1010_1011_0000#16) = .instr (.ldVxVy 0xA#4 0xB#4) ∧
    decode (0b1000_1010_1011_0001#16) = .instr (.orVxVy 0xA#4 0xB#4) ∧
    decode (0b1000_1010_1011_0010#16) = .instr (.andVxVy 0xA#4 0xB#4) ∧
    decode (0b1000_1010_1011_0011#16) = .instr (.xorVxVy 0xA#4 0xB#4) := by decide

theorem test_decode_arithmetic_pairs :
    decode (0b1000_1010_1011_0100#16) = .instr (.addVxVy 0xA#4 0xB#4) ∧
    decode (0b1000_1010_1011_0101#16) = .instr (.subVxVy 0xA#4 0xB#4) ∧
    decode (0b1000_1010_1011_0110#16) = .instr (.shrVxVy 0xA#4 0xB#4) ∧
    decode (0b1000_1010_1011_0111#16) = .instr (.subnVxVy 0xA#4 0xB#4) ∧
    decode (0b1000_1010_1011_1110#16) = .instr (.shlVxVy 0xA#4 0xB#4) := by decide

theorem test_decode_draw : decode (0b1101_0001_0010_1111#16) = .instr (.drwVxVyN 0x1#4 0x2#4 0xF#4) := by decide

theorem test_decode_keys_and_timers :
    decode (0b1110_0001_1001_1110#16) = .instr (.skpVx 0x1#4) ∧
    decode (0b1110_1000_1010_0001#16) = .instr (.sknpVx 0x8#4) ∧
    decode (0b1111_0010_0000_0111#16) = .instr (.ldVxDT 0x2#4) ∧
    decode (0b1111_0001_0000_1010#16) = .instr (.ldVxK 0x1#4) ∧
    decode (0b1111_0101_0001_0101#16) = .instr (.ldDTVx 0x5#4) ∧
    decode (0b1111_0101_0001_1000#16) = .instr (.ldSTVx 0x5#4) := by decide

theorem test_decode_index_and_memory :
    decode (0b1111_0010_0001_1110#16) = .instr (.addIVx 0x2#4) ∧
    decode (0b1111_0011_0010_1001#16) = .instr (.ldFVx 0x3#4) ∧
    decode (0b1111_0101_0011_0011#16) = .instr (.ldBVx 0x5#4) ∧
    decode (0b1111_0010_0101_0101#16) = .instr (.ldMemVx 0x2#4) ∧
    decode (0b1111_1111_0110_0101#16) = .instr (.ldVxMem 0xF#4) := by decide

/-- The unknown words of T-DEC 3, 4, 5, 10, 12, 14, 16, 20, 22, 24. -/
theorem test_decode_unknown :
    [0x0000#16, 0x00E1#16, 0x0123#16, 0x5AB1#16, 0x8AB8#16, 0x8ABF#16, 0x9ABF#16, 0xE19F#16, 0xF1FF#16, 0xFFFF#16].all
      (fun w => decide (decode w = .unknown w)) = true := by decide

/-- T-DEC, byte order: the bytes 12, 34 are JP 0x234. -/
theorem test_decode_byte_order : decodeBytes 0x12#8 0x34#8 = .instr (.jp 0x234#12) := by decide

/-- The table's numbering: bits at and above nbits are 0, so one byte of D1 2F is the word 0x002F, which no row has. -/
theorem test_decode_table_word :
    decodeTableWord 16 0xD12F = some (.drwVxVyN 0x1#4 0x2#4 0xF#4) ∧ decodeTableWord 8 0xD12F = none := by decide

theorem test_encode :
    encode (.seVxVy 0xA#4 0xB#4) = 0x5AB0#16 ∧ encode (.ldVxMem 0xF#4) = 0xFF65#16 ∧ encode (.jp 0x234#12) = 0x1234#16 := by
  decide

/-- The widths and sizes of 00_scope.md R4, as its table gives them; an instruction word is INSTR_BYTES bytes. -/
theorem test_constants :
    (memSize, fontBase, fontSize, glyphBytes, progBase, progMax) = (4096, 0x50, 80, 5, 0x200, 3584) ∧
    (nregs, regBits, iBits, pcBits, stackDepth, stackEntryBits) = (16, 8, 16, 16, 16, 16) ∧
    (fbW, fbH, nkeys, tickHz, instrBytes, instrBytes * regBits) = (64, 32, 16, 60, 2, 16) := by decide

/-! Helpers: one step of a word placed at PC -/

/-- The outcome is a next state with the property. -/
def goes (o : Host.Outcome State Fault Refusal) (p : State → Bool) : Bool :=
  match o with
  | .next t => p t
  | .fault _ => false
  | .refused _ => false

/-- One step of the word placed where `s` fetches next. -/
def run (w : Nat) (s : State) (p : State → Bool) : Bool := goes (step (s.withFetchWord 16 w)) p

/-- V1, V2 and VF set. -/
def abf (a b f : Byte) : State := ((State.reset.setV 0x1#4 a).setV 0x2#4 b).setV vF f

/-- V1 and VF afterwards, with the normal advance. -/
def gives (a f : Byte) (t : State) : Bool := t.getV 0x1#4 == a && t.getV vF == f && t.pc == 0x202#16

/-- The three quirk options away from their defaults. -/
def quirks : Config :=
  { defaultConfig with shiftSrc := .vx, jumpOffsetReg := .vx, drawEdge := .wrap, indexIncrement := .xPlus1 }

def quirky (s : State) : State := { s with cfg := quirks }

/-- A core that has made `n` calls from 0x200. -/
def nested (n : Fin 17) : State := { State.reset with sp := n, stack := Vector.replicate 16 0x202#16 }

/-- I set, and memory from there. -/
def image (i : Word) (us : List Byte) (s : State) : State := (s.writeBytes i.toNat us).setI i

/-! Control transfer -/

/-- T-CTL 1. -/
theorem test_jp : run 0x1ABC State.reset (fun t => t.pc == 0xABC#16) = true := by decide

/-- T-CTL 2: a jump to itself changes nothing. -/
theorem test_jp_self :
    run 0x1200 State.reset (fun t => decide (t = State.reset.withFetchWord 16 0x1200)) = true := by decide

/-- T-CTL 6: the last free entry. -/
theorem test_call_last_entry :
    run 0x2ABC (nested 15) (fun t => t.pc == 0xABC#16 && t.sp.val == 16 && t.stack[15] == 0x202#16) = true := by decide

/-- T-CTL 7: the precise fault. -/
theorem test_call_overflow :
    run 0x2ABC (nested 16) (fun t =>
      decide (t = { (nested 16).withFetchWord 16 0x2ABC with fault := some .stackOverflow })) = true := by decide

/-- T-CTL 11: the popped cell keeps its content. -/
theorem test_ret :
    run 0x00EE { nested 2 with stack := (Vector.replicate 16 0#16).set 1 0xABC#16 }
      (fun t => t.pc == 0xABC#16 && t.sp.val == 1 && t.stack[1] == 0xABC#16) = true := by decide

/-- T-CTL 8. -/
theorem test_ret_underflow :
    run 0x00EE State.reset (fun t => t.fault == some .stackUnderflow && t.pc == 0x200#16 && t.sp.val == 0) = true := by
  decide

/-- T-CTL 12, 13. -/
theorem test_se_immediate :
    run 0x332A (State.reset.setV 0x3#4 0x2A#8) (fun t => t.pc == 0x204#16) = true ∧
    run 0x332A (State.reset.setV 0x3#4 0x2B#8) (fun t => t.pc == 0x202#16) = true := by decide

/-- T-CTL 14, 15. -/
theorem test_sne_immediate :
    run 0x432A (State.reset.setV 0x3#4 0x2A#8) (fun t => t.pc == 0x202#16) = true ∧
    run 0x432A (State.reset.setV 0x3#4 0x2B#8) (fun t => t.pc == 0x204#16) = true := by decide

/-- T-CTL 16, 17. -/
theorem test_se_registers :
    run 0x5120 (abf 9 9 0) (fun t => t.pc == 0x204#16) = true ∧
    run 0x5120 (abf 9 8 0) (fun t => t.pc == 0x202#16) = true := by decide

/-- T-CTL 19, 20. -/
theorem test_sne_registers :
    run 0x9120 (abf 9 8 0) (fun t => t.pc == 0x204#16) = true ∧
    run 0x9120 (abf 9 9 0) (fun t => t.pc == 0x202#16) = true := by decide

/-- T-CTL 22: the sum is not reduced. -/
theorem test_jp_offset : run 0xBFFF (State.reset.setV 0x0#4 0xFF#8) (fun t => t.pc == 0x10FE#16) = true := by decide

/-- T-CTL 23. -/
theorem test_jp_offset_vx :
    run 0xB300 (quirky ((State.reset.setV 0x0#4 0x10#8).setV 0x3#4 0x20#8)) (fun t => t.pc == 0x320#16) = true := by decide

/-! ALU -/

/-- T-ALU 2: VF is an ordinary destination. -/
theorem test_ld_immediate : run 0x6F07 State.reset (fun t => t.getV vF == 7 && t.pc == 0x202#16) = true := by decide

/-- T-ALU 3: no carry is recorded. -/
theorem test_add_immediate_wraps : run 0x7101 (abf 0xFF 0 0) (gives 0x00 0) = true := by decide

/-- T-ALU 4. -/
theorem test_add_immediate_high : run 0x71FF (abf 0x00 0 5) (gives 0xFF 5) = true := by decide

/-- T-ALU 6. -/
theorem test_ld_register : run 0x8120 (abf 0x01 0x55 9) (gives 0x55 9) = true := by decide

/-- T-ALU 7. -/
theorem test_or : run 0x8121 (abf 0xF0 0x0F 9) (gives 0xFF 9) = true := by decide

/-- T-ALU 8. -/
theorem test_and : run 0x8122 (abf 0xF3 0x3F 9) (gives 0x33 9) = true := by decide

/-- T-ALU 9. -/
theorem test_xor : run 0x8123 (abf 0xF3 0x3F 9) (gives 0xCC 9) = true := by decide

/-- T-ALU 14. -/
theorem test_add_carry : run 0x8124 (abf 0xFF 0xFF 0) (gives 0xFE 1) = true := by decide

/-- T-ALU 17: the flag is written last. -/
theorem test_add_to_flag : run 0x8F24 (abf 0 0x01 0x05) (fun t => t.getV vF == 0) = true := by decide

/-- T-ALU 22: a borrow. -/
theorem test_sub_borrow : run 0x8125 (abf 0x00 0xFF 7) (gives 0x01 0) = true := by decide

/-- T-ALU 19: equal operands borrow nothing. -/
theorem test_sub_equal : run 0x8125 (abf 0x10 0x10 0) (gives 0x00 1) = true := by decide

/-- T-ALU 27. -/
theorem test_subn : run 0x8127 (abf 0x00 0xFF 0) (gives 0xFF 1) = true := by decide

/-- T-ALU 28: the operands' order. -/
theorem test_subn_borrow : run 0x8127 (abf 0xFF 0x00 7) (gives 0x01 0) = true := by decide

/-- T-ALU 30, both options. -/
theorem test_shr :
    run 0x8126 (abf 0x00 0xFF 0) (gives 0x7F 1) = true ∧ run 0x8126 (quirky (abf 0x00 0xFF 9)) (gives 0x00 0) = true := by
  decide

/-- T-ALU 34, both options. -/
theorem test_shl :
    run 0x812E (abf 0xAA 0x80 0) (gives 0x00 1) = true ∧ run 0x812E (quirky (abf 0xAA 0x80 0)) (gives 0x54 1) = true := by
  decide

/-! Index register and memory -/

/-- T-IDX 1. -/
theorem test_ld_index : run 0xAFFF State.reset (fun t => t.i == 0xFFF#16 && t.pc == 0x202#16) = true := by decide

/-- T-IDX 3: past memory, no flag. -/
theorem test_add_index :
    run 0xF21E ((abf 0 1 7).setI 0xFFF#16) (fun t => t.i == 0x1000#16 && t.getV vF == 7) = true := by decide

/-- T-IDX 4. -/
theorem test_add_index_wraps : run 0xF21E ((abf 0 2 7).setI 0xFFFF#16) (fun t => t.i == 1#16) = true := by decide

/-- T-IDX 8. -/
theorem test_ld_font : run 0xF329 (State.reset.setV 0x3#4 0x0F#8) (fun t => t.i == 0x9B#16) = true := by decide

/-- T-IDX 9. -/
theorem test_ld_font_suppressed :
    run 0xF329 ((State.reset.setV 0x3#4 0x10#8).setI 0x123#16) (fun t => t.i == 0x123#16 && t.pc == 0x202#16) = true := by
  decide

/-- T-IDX 16: the last span inside memory. -/
theorem test_bcd :
    run 0xF533 ((State.reset.setV 0x5#4 234#8).setI 0xFFD#16)
      (fun t => t.readBytes 0xFFD 3 == [2#8, 3#8, 4#8] && t.i == 0xFFD#16) = true := by decide

/-- T-IDX 17: nothing is written, not even the two bytes inside memory. -/
theorem test_bcd_suppressed :
    run 0xF533 ((State.reset.setV 0x5#4 234#8).setI 0xFFE#16)
      (fun t => t.readBytes 0xFFE 2 == [0#8, 0#8] && t.pc == 0x202#16) = true := by decide

/-- V0 to V3 hold 1 to 4, I is 0x300. -/
def four : State :=
  ((((State.reset.setV 0x0#4 1#8).setV 0x1#4 2#8).setV 0x2#4 3#8).setV 0x3#4 4#8).setI 0x300#16

/-- T-IDX 18, both options. -/
theorem test_block_store :
    run 0xF255 four (fun t => t.readBytes 0x300 4 == [1#8, 2#8, 3#8, 0#8] && t.i == 0x300#16) = true ∧
    run 0xF255 (quirky four) (fun t => t.i == 0x303#16) = true := by decide

/-- T-IDX 20: nothing is written, not even the byte inside memory. -/
theorem test_block_store_suppressed :
    run 0xF155 (four.setI 0xFFF#16) (fun t => t.readByte 0xFFF == 0#8 && t.pc == 0x202#16) = true := by decide

/-- T-IDX 22. -/
theorem test_block_load :
    run 0xF265 ((image 0x300#16 [2#8, 3#8, 4#8, 5#8] State.reset).setV 0x3#4 0x99#8)
      (fun t => t.v.toList.take 5 == [2#8, 3#8, 4#8, 0x99#8, 0#8] && t.i == 0x300#16) = true := by decide

/-- T-IDX 23. -/
theorem test_block_load_suppressed :
    run 0xFF65 (State.reset.setI 0xFF1#16) (fun t => t.v == State.reset.v && t.pc == 0x202#16) = true := by decide

/-! Display -/

/-- Columns 0 to 4 and 59 to 63 of the top row. -/
def top (t : State) : List Bool :=
  ([0, 1, 2, 3, 4, 59, 60, 61, 62, 63] : List (Fin 64)).map fun x => FrameBuffer.pixel t.fb x 0

/-- One pixel on. -/
def dot (x : Fin 64) (y : Fin 32) (s : State) : State := s.setFb (FrameBuffer.setPixel s.fb x y true)

/-- T-DSP 1. -/
theorem test_cls : run 0x00E0 (dot 63 31 (abf 0 0 1)) (fun t => !FrameBuffer.pixel t.fb 63 31 && t.getV vF == 1) = true := by decide

/-- T-DSP 4: bit 7 is leftmost; one pixel set, one erased. -/
theorem test_drw :
    run 0xD121 (dot 1 0 (image 0x300#16 [0xC0#8] (abf 0 0 0)))
      (fun t => top t == [true, false, false, false, false, false, false, false, false, false] && t.getV vF == 1) = true := by
  decide

/-- T-DSP 9, both edges: the clipped bits neither draw nor collide; wrapped, they do. -/
theorem test_drw_edges :
    run 0xD121 (dot 0 0 (image 0x300#16 [0x0F#8] (abf 0x3C 0 0)))
      (fun t => top t == [true, false, false, false, false, false, false, false, false, false] && t.getV vF == 0) = true ∧
    run 0xD121 (quirky (dot 0 0 (image 0x300#16 [0x0F#8] (abf 0x3C 0 0))))
      (fun t => top t == [false, true, true, true, false, false, false, false, false, false] && t.getV vF == 1) = true := by decide

/-! Random, keypad, timers -/

/-- T-KTR 2, the random byte free: nothing of it passes a mask of 0. -/
theorem test_rnd : (match exec (.rndVxNN 0x3#4 0x00#8) (State.reset.setV 0x3#4 0x55#8) with
    | .next t => t.getV 0x3#4
    | _ => 0xFF#8) = 0x00#8 := by
  show (Config.rnd 0 &&& 0x00#8) = 0x00#8
  exact BitVec.and_zero

/-- Key A pressed, V4 names a key. -/
def keyA (v4 : Byte) (s : State) : State := (s.setKeys (s.keys.set 0xA true)).setV 0x4#4 v4

/-- T-KTR 4, 8. -/
theorem test_skp :
    run 0xE49E (keyA 0x0A State.reset) (fun t => t.pc == 0x204#16) = true ∧
    run 0xE49E (keyA 0x10 State.reset) (fun t => t.pc == 0x202#16) = true := by decide

/-- T-KTR 7, 9; key B is not pressed. -/
theorem test_sknp :
    run 0xE4A1 (keyA 0x0A State.reset) (fun t => t.pc == 0x202#16) = true ∧
    run 0xE4A1 (keyA 0x0B State.reset) (fun t => t.pc == 0x204#16) = true ∧
    run 0xE4A1 (keyA 0x10 State.reset) (fun t => t.pc == 0x202#16) = true := by decide

/-- T-KTR 10. -/
theorem test_ld_from_delay : run 0xF207 (State.reset.setDt 0x32#8) (fun t => t.getV 0x2#4 == 0x32) = true := by decide

/-- T-KTR 11. -/
theorem test_ld_to_delay :
    run 0xF015 (State.reset.setV 0x0#4 0x3C#8) (fun t => t.dt == 0x3C && t.st == 0) = true := by decide

/-- T-KTR 12. -/
theorem test_ld_to_sound :
    run 0xF018 (State.reset.setV 0x0#4 5#8) (fun t => t.st == 5 && t.dt == 0 && t.soundActive) = true := by decide

/-- T-KTR 16. -/
theorem test_wait_for_key :
    run 0xF10A (State.reset.setPc 0x204#16)
      (fun t => t.status == .waitingForKey 0x1#4 && t.pc == 0x206#16 && t.getV 0x1#4 == 0) = true := by decide

/-! Unknown words, faults, fetch -/

/-- R68: `0x8AB8` advances PC and reports itself. -/
theorem test_unknown_word :
    run 0x8AB8 State.reset (fun t =>
      decide (t = { State.reset.withFetchWord 16 0x8AB8 with pc := 0x202#16 })) = true ∧
    output .step (State.reset.withFetchWord 16 0x8AB8) =
      .stepped .success (.unknownOpcode 0x8AB8#16 0x200#16) := by decide

/-- T-CTL 26, 27: a fetch outside memory latches its fault, and the latched fault is returned again. -/
theorem test_pc_out_of_range :
    goes (step (State.reset.setPc 0xFFF#16)) (fun t => t.fault == some .pcOutOfRange && t.pc == 0xFFF#16) = true ∧
    (match step ((State.reset.setPc 0xFFF#16).latch .pcOutOfRange) with
      | .fault f => some f
      | _ => none) = some .pcOutOfRange := by decide

/-- R172: the faulting address and word are read from the debug snapshot; a fetch outside memory has no word. -/
theorem test_fault_in_snapshot :
    let t := ((nested 16).withFetchWord 16 0x2ABC).latch .stackOverflow
    (t.debugView.pc = 0x200#16 ∧ t.debugView.wordAtPc = some 0x2ABC#16) ∧
    ((State.reset.setPc 0xFFF#16).latch .pcOutOfRange).debugView.wordAtPc = none :=
  ⟨⟨by decide, (State.debugView_wordAtPc _).trans (by decide)⟩, (State.debugView_wordAtPc _).trans (by decide)⟩

/-- T-CTL 25: the last word of memory runs, and PC leaves memory. -/
theorem test_last_word_of_memory :
    run 0x6001 (State.reset.setPc 0xFFE#16) (fun t => t.getV 0x0#4 == 1 && t.pc == 0x1000#16) = true := by decide

/-- T-IDX 25: a store is what the next step runs. -/
theorem test_self_modification :
    run 0xF055 ((image 0x202#16 [0x00#8, 0x34#8] State.reset).setV 0x0#4 0x12#8)
      (fun t => goes (step t) fun u => u.pc == 0x234#16) = true := by decide

/-- T-IDX 9: the suppressed access is reported. -/
theorem test_suppression_reported :
    output .step ((State.reset.setV 0x3#4 0x10#8).withFetchWord 16 0xF329) =
      .stepped .success (.accessSuppressed 0xF329#16 0x200#16) := by decide

/-! The other events, from the agenda -/

/-- One event, from the agenda. -/
def event (e : Event) (s : State) (p : State → Bool) : Bool := goes (step { s with pending := [e] }) p

/-- T-KTR 13, 14. -/
theorem test_tick :
    event .tick ((State.reset.setDt 2#8).setSt 0#8) (fun t => t.dt == 1 && t.st == 0) = true ∧
    event .tick ((State.reset.setDt 0#8).setSt 1#8) (fun t => t.dt == 0 && t.st == 0 && !t.soundActive) = true := by decide

/-- Waiting into V1. -/
def waiting : State := State.reset.setStatus (.waitingForKey 0x1#4)

/-- T-KTR 19, 20: only a key that goes down ends the wait. -/
theorem test_key_set_wakes :
    event (.keySet 7 true) waiting
      (fun t => t.keys[7] && t.getV 0x1#4 == 7 && t.status == .running) = true ∧
    event (.keySet 7 true) (waiting.setKeys (waiting.keys.set 7 true))
      (fun t => t.keys[7] && t.getV 0x1#4 == 0 && t.status == .waitingForKey 0x1#4) = true := by decide

/-- T-KTR 23. -/
theorem test_key_set_sixteen : event (.keySet 16 true) waiting (fun t => decide (t = waiting)) = true := by decide

/-- T-KTR 17: a waiting core idles. -/
theorem test_waiting_idles :
    event .step waiting (fun t => decide (t = waiting)) = true ∧ output .step waiting = .stepped .success .idle := by decide

/-- T-HOST 5: a load touches neither PC nor the latched fault. -/
theorem test_load :
    event (.load [0xAA#8]) ((State.reset.setPc 0x300#16).latch .stackUnderflow)
      (fun t => t.readByte 0x200 == 0xAA && t.pc == 0x300#16 && t.fault == some .stackUnderflow) = true := by decide

/-- T-HOST 1. -/
theorem test_reset_event :
    event .reset ((four.latch .stackOverflow).writeBytes 0x50 [1#8, 2#8]) (fun t => decide (t = State.reset)) = true := by
  decide

/-- E6: the font begins with glyph 0. -/
theorem test_reset_font : State.reset.readBytes 0x50 5 = [0xF0#8, 0x90#8, 0x90#8, 0x90#8, 0xF0#8] := by decide

/-- A faulted core: a Step of the agenda is passed over and the Tick behind it still acts (60_exceptions.md R174). -/
theorem test_tick_while_faulted :
    goes (step { (State.reset.setDt 9#8).latch .stackOverflow with pending := [.step, .tick] })
      (fun t => t.dt == 9 && goes (step t) fun u => u.dt == 8 && u.fault == some .stackOverflow) = true := by decide

/-! Witnesses: for each obligation with hypotheses, a state and operands that meet them, each clause at a boundary of its
range -/

theorem witness_DecodedWordsEncodeBack : decode 0xFF65#16 = .instr (.ldVxMem 0xF#4) := by decide

theorem witness_DecoderSelectsTheUniqueRow :
    decode 0x5AB0#16 = .instr (.seVxVy 0xA#4 0xB#4) ∧ (Instr.seVxVy 0x0#4 0x0#4).matchesWord 0x5AB0#16 = true ∧
    (Instr.seVxVy 0xF#4 0xF#4).matchesWord 0x5AB0#16 = true := by decide

/-- A state about to run the word at PC. -/
def placed (w : Nat) : State := State.reset.withFetchWord 16 w

/-- With an empty agenda and with a Step at its head; the last address that can be fetched from. -/
theorem witness_StepRunsTheFetchedInstruction :
    ((placed 0x6001).runs ∧ (placed 0x6001).stepsNext ∧
      decodeBytes ((placed 0x6001).readByte (placed 0x6001).pc.toNat)
        ((placed 0x6001).readByte ((placed 0x6001).pc.toNat + 1)) = .instr (.ldVxNN 0x0#4 0x01#8)) ∧
    (State.reset.setPc 0xFFE#16).runs ∧ ({ placed 0x6001 with pending := [.step, .tick] } : State).stepsNext :=
  ⟨⟨⟨rfl, rfl, by decide⟩, .inl rfl, by decide⟩, ⟨rfl, rfl, by decide⟩, .inr rfl⟩

/-- Memory after reset holds 0x0000 at PC, an unknown word. -/
theorem witness_UnknownWordOnlyAdvances :
    State.reset.runs ∧ State.reset.stepsNext ∧
    decodeBytes (State.reset.readByte State.reset.pc.toNat) (State.reset.readByte (State.reset.pc.toNat + 1)) =
      .unknown 0x0000#16 :=
  ⟨⟨rfl, rfl, by decide⟩, .inl rfl, by decide⟩

theorem witness_FetchOutsideMemoryLatches :
    (State.reset.setPc 0xFFF#16).fault = none ∧ (State.reset.setPc 0xFFF#16).status = .running ∧
    (State.reset.setPc 0xFFF#16).pc.toNat > 0x0FFE := by decide

theorem witness_FaultedOrWaitingCoreStepsInPlace :
    (State.reset.latch .stackUnderflow).fault = some .stackUnderflow ∧
    waiting.fault = none ∧ waiting.status = .waitingForKey 0x1#4 := by decide

/-- Each of the three faults, each at the boundary of its condition. -/
theorem witness_FaultsAreExactlyTheListedOnes :
    (State.reset.setPc 0xFFF#16).fault = none ∧ stepResult (State.reset.setPc 0xFFF#16) = .faulted .pcOutOfRange ∧
    ((nested 16).withFetchWord 16 0x2ABC).fault = none ∧
    stepResult ((nested 16).withFetchWord 16 0x2ABC) = .faulted .stackOverflow ∧
    stepResult ((nested 15).withFetchWord 16 0x2ABC) = .success ∧
    stepResult ((nested 0).withFetchWord 16 0x00EE) = .faulted .stackUnderflow ∧
    stepResult ((nested 1).withFetchWord 16 0x00EE) = .success := by decide

/-- A CALL that overflows, and a fetch at the first address outside. -/
theorem witness_SnapshotShowsTheFaultingWord :
    (((nested 16).withFetchWord 16 0x2ABC).fault = none ∧
      goes (cycle ((nested 16).withFetchWord 16 0x2ABC)) (fun t => t.fault == some .stackOverflow) = true) ∧
    (State.reset.setPc 0xFFF#16).fault = none ∧
    goes (cycle (State.reset.setPc 0xFFF#16)) (fun t => t.fault == some .pcOutOfRange) = true := by decide

/-- The first span that leaves memory, for each instruction, and the first value outside the tables. -/
theorem witness_SuppressedInstructionOnlyAdvances :
    leavesRange (State.reset.setI 0xFFF#16) (.drwVxVyN 0x1#4 0x2#4 0x2#4) ∧
    leavesRange (State.reset.setI 0xFFE#16) (.ldBVx 0x5#4) ∧
    leavesRange (State.reset.setI 0x1000#16) (.ldMemVx 0x0#4) ∧
    leavesRange (State.reset.setI 0xFF1#16) (.ldVxMem 0xF#4) ∧
    leavesRange (State.reset.setV 0x4#4 0x10#8) (.ldFVx 0x4#4) ∧
    leavesRange (State.reset.setV 0x4#4 0x10#8) (.skpVx 0x4#4) ∧
    leavesRange (State.reset.setV 0x4#4 0x10#8) (.sknpVx 0x4#4) :=
  ⟨.inl ⟨_, _, _, rfl, by decide, by decide⟩, .inr (.inl ⟨_, rfl, by decide⟩),
   .inr (.inr (.inl ⟨_, .inl rfl, by decide⟩)), .inr (.inr (.inl ⟨_, .inr rfl, by decide⟩)),
   .inr (.inr (.inr ⟨_, .inl rfl, by decide⟩)), .inr (.inr (.inr ⟨_, .inr (.inl rfl), by decide⟩)),
   .inr (.inr (.inr ⟨_, .inr (.inr rfl), by decide⟩))⟩

/-- A suppressed block store and one that is not. -/
theorem witness_SuppressionIsReported :
    (((State.reset.setI 0x1000#16).withFetchWord 16 0xF055).runs ∧
      ((State.reset.setI 0x1000#16).withFetchWord 16 0xF055).fetched = .instr (.ldMemVx 0x0#4) ∧
      leavesRange ((State.reset.setI 0x1000#16).withFetchWord 16 0xF055) (.ldMemVx 0x0#4)) ∧
    (placed 0x00E0).runs ∧ (placed 0x00E0).fetched = .instr .cls ∧ ¬ leavesRange (placed 0x00E0) .cls := by
  refine ⟨⟨⟨rfl, rfl, by decide⟩, by decide, .inr (.inr (.inl ⟨_, .inl rfl, by decide⟩))⟩, ⟨rfl, rfl, by decide⟩,
    by decide, ?_⟩
  rintro (⟨_, _, _, h, _⟩ | ⟨_, h, _⟩ | ⟨_, h | h, _⟩ | ⟨_, h | h | h, _⟩) <;> cases h

theorem witness_JumpSetsProgramCounter : State.reset.pc.toNat = (0x200#12 : Addr).toNat := by decide

theorem witness_JumpWithOffsetAddsTheRegister :
    State.reset.cfg.jumpOffsetReg = .v0 ∧ (quirky State.reset).cfg.jumpOffsetReg = .vx := by decide

theorem witness_CallPushesOrOverflows : (nested 15).sp.val < 16 ∧ (nested 16).sp.val = 16 := by decide

theorem witness_ReturnPopsOrUnderflows : 0 < (nested 1).sp.val ∧ (nested 0).sp.val = 0 := by decide

theorem witness_CallThenReturnComesBack : (nested 15).sp.val < 16 := by decide

theorem witness_AddRegistersSetsCarry : (0x1#4 : Reg) ≠ vF := by decide

theorem witness_SubtractionsSetNoBorrow : (0xE#4 : Reg) ≠ vF := by decide

/-- Both sources, and a destination other than VF. -/
theorem witness_ShiftsMoveOneBitIntoVF :
    (0x02#8 = if (abf 1 2 0).cfg.shiftSrc = .vy then (abf 1 2 0).getV 0x2#4 else (abf 1 2 0).getV 0x1#4) ∧
    (0x01#8 = if (quirky (abf 1 2 0)).cfg.shiftSrc = .vy then (quirky (abf 1 2 0)).getV 0x2#4
      else (quirky (abf 1 2 0)).getV 0x1#4) ∧ (0x1#4 : Reg) ≠ vF := by decide

theorem witness_FontLookupGivesGlyphAddress : ((State.reset.setV 0x3#4 0x0F#8).getV 0x3#4).toNat ≤ 15 := by decide

theorem witness_BcdStoreWritesThreeDigits : (State.reset.setI 0xFFD#16).i.toNat + 2 ≤ 0xFFF := by decide

/-- The longest and the shortest span that end at the last address, and both index options. -/
theorem witness_BlockStoreWritesTheRegisters :
    (State.reset.setI 0xFF0#16).i.toNat + (0xF#4 : Reg).toNat ≤ 0xFFF ∧
    (State.reset.setI 0xFFF#16).i.toNat + (0x0#4 : Reg).toNat ≤ 0xFFF ∧
    State.reset.cfg.indexIncrement = .none ∧ (quirky State.reset).cfg.indexIncrement = .xPlus1 := by decide

theorem witness_BlockLoadReadsTheRegisters :
    (State.reset.setI 0xFF0#16).i.toNat + (0xF#4 : Reg).toNat ≤ 0xFFF ∧
    (State.reset.setI 0xFFF#16).i.toNat + (0x0#4 : Reg).toNat ≤ 0xFFF ∧
    State.reset.cfg.indexIncrement = .none ∧ (quirky State.reset).cfg.indexIncrement = .xPlus1 := by decide

/-- Under the option that moves I, the state after the store with I put back meets the inner hypotheses. -/
theorem witness_BlockLoadUndoesBlockStore :
    (quirky four).i.toNat + (0x2#4 : Reg).toNat ≤ 0xFFF ∧
    ∃ t, exec (.ldMemVx 0x2#4) (quirky four) = .next t ∧
      (t.setI (quirky four).i).i = (quirky four).i ∧ ∀ a, (t.setI (quirky four).i).readByte a = t.readByte a :=
  ⟨by decide, _, rfl, rfl, fun _ => rfl⟩

/-- I at the next instruction; the last place where this fits. -/
theorem witness_StoresReachTheNextFetch :
    1 ≤ (0x1#4 : Reg).toNat ∧
    ((State.reset.setPc 0xFFC#16).setI 0xFFE#16).i = ((State.reset.setPc 0xFFC#16).setI 0xFFE#16).pc + 2#16 ∧
    ((State.reset.setPc 0xFFC#16).setI 0xFFE#16).i.toNat + (0x1#4 : Reg).toNat ≤ 0xFFF := by decide

/-- One row at the last address, and no row far outside memory. -/
theorem witness_DrawXorsTheSprite :
    ((0x1#4 : Nibble).toNat ≥ 1 → (State.reset.setI 0xFFF#16).i.toNat + (0x1#4 : Nibble).toNat - 1 ≤ 0xFFF) ∧
    ((0x0#4 : Nibble).toNat ≥ 1 → (State.reset.setI 0xFFFF#16).i.toNat + (0x0#4 : Nibble).toNat - 1 ≤ 0xFFF) := by decide

/-- A sprite that covers a pixel that is on (VF becomes 1), and a sprite of no rows, which covers none (VF becomes 0). -/
theorem witness_DrawXorsTheSprite_collision :
    (∃ px py, (dot 1 0 (image 0x300#16 [0xC0#8] State.reset)).fb.pixel px py = true ∧
      spriteCovers (dot 1 0 (image 0x300#16 [0xC0#8] State.reset)) 0x1#4 0x2#4 0x1#4 px py) ∧
    ¬ ∃ px py, State.reset.fb.pixel px py = true ∧ spriteCovers State.reset 0x1#4 0x2#4 0x0#4 px py := by
  refine ⟨⟨1, 0, by decide, 0, 1, by decide, by decide, by decide, by decide, by decide⟩, ?_⟩
  rintro ⟨_, _, _, _, _, h, _⟩
  exact absurd h (Nat.not_lt_zero _)

/-- Wrapped past the right edge: column 0 is covered from column 63. -/
theorem witness_DrawXorsTheSprite_wrap :
    spriteCovers (quirky (image 0x300#16 [0xC0#8] (abf 0x3F 0 0))) 0x1#4 0x2#4 0x1#4 0 0 :=
  ⟨0, 1, by decide, by decide, by decide, by decide, by decide⟩

theorem witness_DrawTwiceRestoresTheScreen :
    (0x1#4 : Reg) ≠ vF ∧ (0x1#4 : Reg) ≠ vF ∧
    ((0xF#4 : Nibble).toNat ≥ 1 → (State.reset.setI 0xFF1#16).i.toNat + (0xF#4 : Nibble).toNat - 1 ≤ 0xFFF) := by decide

/-- The last key, pressed and not pressed. -/
theorem witness_KeySkipsReadTheLatch :
    (State.reset.setV 0x4#4 0x0F#8).keys[((State.reset.setV 0x4#4 0x0F#8).getV 0x4#4).toNat]? = some false ∧
    (keyA 0x0A State.reset).keys[((keyA 0x0A State.reset).getV 0x4#4).toNat]? = some true := by decide

/-- The last key and the first number that is none; a flag that rises while waiting; the three ways not to wake. -/
theorem witness_KeySetLatchesAndWakes :
    (16 > 15 ∧ 15 ≤ 15) ∧
    (waiting.keys[15]? = some false ∧ waiting.status = .waitingForKey 0x1#4) ∧
    ((waiting.setKeys (waiting.keys.set 7 true)).keys[7]? = some true) ∧ State.reset.status = .running := by decide

/-- The longest image, and one byte more. -/
theorem witness_LoadCopiesTheImage :
    (List.replicate 3584 0xAA#8).length ≤ 3584 ∧ (List.replicate 3585 0xAA#8).length > 3584 := by
  simp only [List.length_replicate]; decide

/-- A byte listed that differs from its reset content, and a step from that state. -/
theorem witness_StepKeepsMemoryCanonical :
    (placed 0x00E0).memoryCanonical ∧ (placed 0x00E0).mem ≠ [] ∧ ∃ t, step (placed 0x00E0) = .next t := by
  refine ⟨?_, by decide, _, rfl⟩
  unfold State.memoryCanonical
  decide

/-- A core one call deep, waiting or not, and its step. -/
theorem witness_StepKeepsControlInv :
    (nested 1).controlInv ∧ (∃ t, step (nested 1) = .next t) ∧ waiting.notWaitingAndFaulted ∧
    (State.reset.latch .stackOverflow).notWaitingAndFaulted := by
  refine ⟨⟨?_, fun k h => ?_, .inl rfl⟩, ⟨_, rfl⟩, .inr rfl, .inl rfl⟩
  · show (nested 1).pc.toNat ≤ 0x10FE
    decide
  · obtain rfl : k = 0 := Nat.lt_one_iff.mp h
    exact (by decide : 2 ≤ (0x202#16).toNat ∧ (0x202#16).toNat ≤ 0x1000)

/-- A faulted core with a Tick next, and one with a Load next: each step changes what it may. -/
theorem witness_OnlyResetLeavesAFault :
    let s : State := { State.reset.latch .stackOverflow with pending := [.tick] }
    let u : State := { State.reset.latch .stackOverflow with pending := [.load [7#8]] }
    (s.notWaitingAndFaulted ∧ s.fault = some .stackOverflow ∧ s.pending.head? ≠ some .reset ∧ ∃ t, step s = .next t) ∧
    u.notWaitingAndFaulted ∧ u.fault = some .stackOverflow ∧ u.pending.head? ≠ some .reset ∧ ∃ t, step u = .next t :=
  ⟨⟨.inl rfl, rfl, by decide, _, rfl⟩, .inl rfl, rfl, by decide, _, rfl⟩

/-- A step that sets the delay timer, one that does not, and a Tick. -/
theorem witness_OnlyTickCountsATimerDown :
    run 0xF015 (State.reset.setV 0x0#4 0x3C#8) (fun t => t.dt == 0x3C) = true ∧
    run 0x00E0 (State.reset.setDt 9#8) (fun t => t.dt == 9) = true ∧
    event .tick (State.reset.setDt 9#8) (fun t => t.dt == 8) = true := by decide

/-- A step that changes the framebuffer: CLS from a screen with a pixel on; and a Reset from the same screen. -/
theorem witness_OnlyClearAndDrawChangePixels :
    (∃ t, step (dot 1 0 (placed 0x00E0)) = .next t ∧ t.fb ≠ (dot 1 0 (placed 0x00E0)).fb) ∧
    ∃ t, step { dot 1 0 State.reset with pending := [.reset] } = .next t ∧ t.fb ≠ (dot 1 0 State.reset).fb := by
  refine ⟨⟨_, rfl, ?_⟩, _, rfl, ?_⟩ <;> decide

/-- Memory changed by LD B, by LD [I], by Load and by Reset. -/
theorem witness_OnlyStoresAndLoadsChangeMemory :
    run 0xF533 ((State.reset.setV 0x5#4 7#8).setI 0x300#16) (fun t => t.readByte 0x302 != State.reset.readByte 0x302) = true ∧
    run 0xF255 four (fun t => t.readByte 0x302 != State.reset.readByte 0x302) = true ∧
    event (.load [7#8]) State.reset (fun t => t.readByte 0x200 != State.reset.readByte 0x200) = true ∧
    event .reset (State.reset.writeBytes 0x50 [7#8]) (fun t => t.readByte 0x50 != 7#8) = true := by decide

/-- VF changed as a flag, and as a named destination. -/
theorem witness_OnlyFlagWritersTouchVF :
    (∃ t, exec (.addVxVy 0x1#4 0x2#4) (abf 0xFF 0xFF 0) = .next t ∧ t.getV vF ≠ (abf 0xFF 0xFF 0).getV vF) ∧
    ∃ t, exec (.ldVxNN 0xF#4 0x07#8) State.reset = .next t ∧ t.getV vF ≠ State.reset.getV vF := by
  refine ⟨⟨_, rfl, ?_⟩, _, rfl, ?_⟩ <;> decide

/-- The last address that is fetched from. -/
theorem witness_ProgramCounterFollowsTheTable :
    (State.reset.setPc 0xFFE#16).pc.toNat ≤ 0x0FFE ∧ ∃ t, exec .cls (State.reset.setPc 0xFFE#16) = .next t :=
  ⟨by decide, _, rfl⟩

/-- A step that changes the key latch. -/
theorem witness_ConfigurationAndKeysAreTheHosts :
    ∃ t, step { State.reset with pending := [.keySet 15 true] } = .next t ∧ t.keys ≠ State.reset.keys := by
  refine ⟨_, rfl, ?_⟩
  decide

end Sys2Proof.Tests
end

/-! What a cycle and the events of the host leave of the configuration and the key latch (00_scope.md R5, 10_state.md R21,
70_reset_and_hazards.md R202). -/

namespace Sys2Proof.Machine

/-- What no cycle touches: the configuration, the key latch and the agenda. -/
theorem cycle_keeps {s t : State} (h : cycle s = .next t) : t.cfg = s.cfg ∧ t.keys = s.keys ∧ t.pending = s.pending := by
  obtain ⟨_, _, rfl⟩ | ⟨_, _, _, rfl⟩ | ⟨i, _, _, hexec⟩ | ⟨w, _, _, rfl⟩ := cycle_cases h
  case inr.inr.inl => exact exec_keeps hexec
  all_goals exact ⟨rfl, rfl, rfl⟩

@[simp] theorem State.load_cfg (s : State) (bytes : List Byte) : (s.load bytes).cfg = s.cfg := by
  rw [State.load_eq]; split <;> rfl

@[simp] theorem State.load_keys (s : State) (bytes : List Byte) : (s.load bytes).keys = s.keys := by
  rw [State.load_eq]; split <;> rfl

@[simp] theorem State.tick_cfg (s : State) : s.tick.cfg = s.cfg := rfl

@[simp] theorem State.tick_keys (s : State) : s.tick.keys = s.keys := rfl

@[simp] theorem State.keySet_cfg (s : State) (k : Nat) (pressed : Bool) : (s.keySet k pressed).cfg = s.cfg := by
  obtain ⟨_, h⟩ | ⟨_, x, _, _, _, h⟩ | ⟨_, _, h⟩ := State.keySet_cases s k pressed <;> rw [h] <;> rfl

/-- A step other than a Reset or a KeySet keeps the configuration and the key latch; those two keep the configuration. -/
theorem step_keeps_cfg_and_keys {s t : State} (h : step s = .next t) :
    t.cfg = s.cfg ∧
    (t.keys = s.keys ∨ s.pending.head? = some .reset ∨ ∃ k pressed, s.pending.head? = some (.keySet k pressed)) := by
  obtain ⟨_, hcycle⟩ | ⟨es, _, hcycle⟩ | ⟨es, f, _, _, rfl⟩ | ⟨es, hp, rfl⟩ | ⟨es, bytes, _, rfl⟩ | ⟨es, _, rfl⟩ |
    ⟨es, k, pressed, hp, rfl⟩ | ⟨es, _, rfl⟩ := step_cases h
  · obtain ⟨hcfg, hkeys, _⟩ := cycle_keeps hcycle
    exact ⟨hcfg, .inl hkeys⟩
  · obtain ⟨hcfg, hkeys, _⟩ := cycle_keeps hcycle
    exact ⟨hcfg, .inl hkeys⟩
  · exact ⟨rfl, .inl rfl⟩
  · exact ⟨rfl, .inr (.inl (by simp [hp]))⟩
  · exact ⟨by simp, .inl (by simp)⟩
  · exact ⟨rfl, .inl rfl⟩
  · exact ⟨by simp, .inr (.inr ⟨k, pressed, by simp [hp]⟩)⟩
  · exact ⟨rfl, .inl rfl⟩

end Sys2Proof.Machine

/-- Settles O58, by the case analysis of a step: no instruction and no event writes the configuration, and of the events only
Reset and KeySet write the key latch. -/
theorem configurationAndKeysAreTheHosts : Obligations.ConfigurationAndKeysAreTheHosts := by
  intro s t h
  obtain ⟨hcfg, hkeys⟩ := Sys2Proof.Machine.step_keeps_cfg_and_keys h
  exact ⟨hcfg, fun hne => hkeys.resolve_left hne⟩

/-! The control invariant over instructions, events and steps (10_state.md R17, 40_cycle_control.md R83, 60_exceptions.md R186). -/

namespace Sys2Proof.Machine

variable {s t : State}

/-! What an instruction does to PC, the call stack and the fault latch -/

/-- The form of every instruction the out-of-range policy can suppress (20_memory.md R46). -/
theorem suppress_or_next {c : Bool} {u : State} (h : (if c then suppress s else .next u) = Host.Outcome.next t) :
    t = s.advance ∨ t = u := by
  cases c <;> cases h
  · exact .inr rfl
  · exact .inl rfl

/-- The call stack and the fault latch are as before, and PC advanced, skipped or went to an address that an instruction's
operands can name (40_cycle_control.md R91; 10_state.md R17). -/
def movesOnlyPc (s t : State) : Prop :=
  t.sp = s.sp ∧ t.stack = s.stack ∧ t.fault = s.fault ∧
    (t.pc = s.pc + 2#16 ∨ t.pc = s.pc + 2#16 + 2#16 ∨ t.pc.toNat ≤ 0x10FE)

theorem movesOnlyPc_advance (s : State) : movesOnlyPc s s.advance := ⟨rfl, rfl, rfl, .inl rfl⟩

theorem movesOnlyPc_skipIf (s : State) (c : Bool) : movesOnlyPc s (s.skipIf c) := by
  cases c
  · exact movesOnlyPc_advance s
  · exact ⟨rfl, rfl, rfl, .inr (.inl rfl)⟩

/-- A 12-bit target, as JP and CALL write it, is at most 0x0FFF. -/
theorem addr_setWidth_le (nnn : Addr) : (nnn.setWidth 16).toNat ≤ 0x0FFF := by
  have := nnn.isLt
  simp only [BitVec.toNat_setWidth]
  omega

/-- A 12-bit address plus a byte, as JP V0 writes it, is at most 0x10FE. -/
theorem addr_add_byte_le (nnn : Addr) (u : Byte) : (BitVec.ofNat 16 (nnn.toNat + u.toNat)).toNat ≤ 0x10FE := by
  have := nnn.isLt
  have := u.isLt
  simp only [BitVec.toNat_ofNat]
  omega

/-- RET pops the newest live entry into PC, or underflows (40_cycle_control.md R83). -/
theorem execRet_cases (h : execRet s = .next t) :
    (∃ hsp : 0 < s.sp.val, t = s.pop.setPc (s.top hsp)) ∨ (s.sp.val = 0 ∧ t = s.latch .stackUnderflow) := by
  unfold execRet at h
  split at h
  next hsp => cases h; exact .inl ⟨hsp, rfl⟩
  next hsp => cases h; exact .inr ⟨Nat.eq_zero_of_not_pos hsp, rfl⟩

/-- CALL pushes the advanced PC and jumps, or overflows (40_cycle_control.md R84). -/
theorem execCall_cases {nnn : Addr} (h : execCall nnn s = .next t) :
    (∃ hsp : s.sp.val < stackDepth, t = (s.push s.npc hsp).setPc (nnn.setWidth 16)) ∨
    (stackDepth ≤ s.sp.val ∧ t = s.latch .stackOverflow) := by
  unfold execCall at h
  split at h
  next hsp => cases h; exact .inl ⟨hsp, rfl⟩
  next hsp => cases h; exact .inr ⟨Nat.le_of_not_lt hsp, rfl⟩

/-- Every instruction but RET and CALL leaves the call stack and the fault latch as they are and bounds what it adds to PC. -/
theorem exec_movesOnlyPc {i : Instr} (hret : i ≠ .ret) (hcall : ∀ nnn, i ≠ .call nnn) (h : exec i s = .next t) :
    movesOnlyPc s t := by
  cases i with
  | ret => exact absurd rfl hret
  | call nnn => exact absurd rfl (hcall nnn)
  | jp nnn => cases h; exact ⟨rfl, rfl, rfl, .inr (.inr ((addr_setWidth_le nnn).trans (by decide)))⟩
  | jpV0NNN nnn => cases h; exact ⟨rfl, rfl, rfl, .inr (.inr (addr_add_byte_le nnn _))⟩
  | seVxNN | sneVxNN | seVxVy | sneVxVy => cases h; exact movesOnlyPc_skipIf s _
  | skpVx | sknpVx =>
    obtain rfl | rfl := suppress_or_next h
    · exact movesOnlyPc_advance s
    · exact movesOnlyPc_skipIf s _
  | ldFVx | ldBVx | ldMemVx | ldVxMem | drwVxVyN =>
    obtain rfl | rfl := suppress_or_next h
    · exact movesOnlyPc_advance s
    · exact ⟨rfl, rfl, rfl, .inl rfl⟩
  | cls | ldVxNN | addVxNN | ldVxVy | orVxVy | andVxVy | xorVxVy | addVxVy | subVxVy | shrVxVy | subnVxVy | shlVxVy
  | ldINNN | rndVxNN | ldVxDT | ldVxK | ldDTVx | ldSTVx | addIVx => cases h; exact ⟨rfl, rfl, rfl, .inl rfl⟩

/-! The live return addresses -/

theorem State.liveReturnsInRange_iff (s : State) :
    s.liveReturnsInRange ↔ ∀ k w, k < s.sp.val → s.stack[k]? = some w → 0x2 ≤ w.toNat ∧ w.toNat ≤ 0x1000 := by
  have hlt : ∀ k, k < s.sp.val → k < stackDepth := fun k hk => by have := s.sp.isLt; omega
  constructor
  · intro h k w hk hw
    rw [Vector.getElem?_eq_getElem (hlt k hk)] at hw
    cases hw
    exact h k hk
  · intro h k hk
    exact h k _ hk (Vector.getElem?_eq_getElem (hlt k hk))

/-- Which entries are live, and their content, is SP and STACK alone. -/
theorem State.liveReturnsInRange_congr (hsp : t.sp = s.sp) (hstack : t.stack = s.stack) (h : s.liveReturnsInRange) :
    t.liveReturnsInRange := by
  rw [State.liveReturnsInRange_iff] at h ⊢
  rwa [hsp, hstack]

theorem State.liveReturnsInRange_pop (h : s.liveReturnsInRange) : s.pop.liveReturnsInRange := by
  rw [State.liveReturnsInRange_iff] at h ⊢
  intro k w hk hw
  have hk' : k < s.sp.val := Nat.lt_of_lt_of_le hk (Nat.sub_le _ _)
  exact h k w hk' hw

theorem State.liveReturnsInRange_push {w : ReturnAddr} {hsp : s.sp.val < stackDepth} (hw : 0x2 ≤ w.toNat ∧ w.toNat ≤ 0x1000)
    (h : s.liveReturnsInRange) : (s.push w hsp).liveReturnsInRange := by
  rw [State.liveReturnsInRange_iff] at h ⊢
  intro k u hk hu
  rw [State.push_stack_get] at hu
  by_cases hkt : k = s.sp.val
  · rw [if_pos hkt] at hu
    cases hu
    exact hw
  · rw [if_neg hkt] at hu
    have hk' : k < s.sp.val + 1 := hk
    exact h k u (by omega) hu

/-- The address a RET jumps to is a live one. -/
theorem State.top_le (h : s.liveReturnsInRange) (hsp : 0 < s.sp.val) : (s.top hsp).toNat ≤ 0x1000 :=
  ((State.liveReturnsInRange_iff s).mp h _ _ (Nat.sub_lt hsp Nat.one_pos) (State.top_eq s hsp)).2

/-- A core that runs an instruction fetched it inside memory (40_cycle_control.md R81). -/
theorem State.runs.pc_le (h : s.runs) : s.pc.toNat ≤ 0x0FFE := by
  obtain ⟨_, _, hpc⟩ := h
  exact hpc

theorem pc_add_two_toNat (h : s.pc.toNat ≤ 0x0FFE) : (s.pc + 2#16).toNat = s.pc.toNat + 2 := by
  simp only [BitVec.toNat_add, BitVec.toNat_ofNat]
  omega

/-! The invariant is kept -/

/-- The control invariant speaks of PC, SP, STACK, STATUS and FAULT alone. -/
theorem State.controlInv_congr (hpc : t.pc = s.pc) (hsp : t.sp = s.sp) (hstack : t.stack = s.stack)
    (hstatus : t.status = s.status) (hfault : t.fault = s.fault) (h : s.controlInv) : t.controlInv := by
  obtain ⟨hbound, hlive, hwait⟩ := h
  refine ⟨?_, State.liveReturnsInRange_congr hsp hstack hlive, ?_⟩
  · rw [State.pcBounded, hpc]; exact hbound
  · rw [State.notWaitingAndFaulted, hstatus, hfault]; exact hwait

/-- Moving PC from inside memory keeps it in bounds: an advance or a skip ends at 0x1002 at most. -/
theorem controlInv_of_movesOnlyPc (hr : s.runs) (hinv : s.controlInv) (h : movesOnlyPc s t) : t.controlInv := by
  have hpc := hr.pc_le
  obtain ⟨hfault, _, _⟩ := hr
  obtain ⟨_, hlive, _⟩ := hinv
  obtain ⟨hsp, hstack, hlatch, hmove⟩ := h
  refine ⟨?_, State.liveReturnsInRange_congr hsp hstack hlive, .inr (hlatch.trans hfault)⟩
  have hnpc := pc_add_two_toNat hpc
  unfold State.pcBounded
  obtain h | h | h := hmove
  · rw [h, hnpc]; omega
  · rw [h, BitVec.toNat_add, hnpc, BitVec.toNat_ofNat]; omega
  · exact h

/-- RET needs the live returns to bound the PC it restores. -/
theorem execRet_keeps_controlInv (hr : s.runs) (hinv : s.controlInv) (h : execRet s = .next t) : t.controlInv := by
  obtain ⟨hfault, hstatus, _⟩ := hr
  obtain ⟨hbound, hlive, _⟩ := hinv
  obtain ⟨hsp, rfl⟩ | ⟨_, rfl⟩ := execRet_cases h
  · exact ⟨(State.top_le hlive hsp).trans (by decide), State.liveReturnsInRange_pop hlive, .inr hfault⟩
  · exact ⟨hbound, hlive, .inl hstatus⟩

/-- CALL pushes the PC after a fetch inside memory, which is in the range of return addresses. -/
theorem execCall_keeps_controlInv {nnn : Addr} (hr : s.runs) (hinv : s.controlInv) (h : execCall nnn s = .next t) :
    t.controlInv := by
  have hpc := hr.pc_le
  obtain ⟨hfault, hstatus, _⟩ := hr
  obtain ⟨hbound, hlive, _⟩ := hinv
  obtain ⟨hsp, rfl⟩ | ⟨_, rfl⟩ := execCall_cases h
  · have hret : 0x2 ≤ s.npc.toNat ∧ s.npc.toNat ≤ 0x1000 := by
      rw [State.npc_eq, pc_add_two_toNat hpc]
      omega
    exact ⟨(addr_setWidth_le nnn).trans (by decide), State.liveReturnsInRange_push (hsp := hsp) hret hlive, .inr hfault⟩
  · exact ⟨hbound, hlive, .inl hstatus⟩

theorem exec_keeps_controlInv {i : Instr} (hr : s.runs) (hinv : s.controlInv) (h : exec i s = .next t) : t.controlInv := by
  by_cases hret : i = .ret
  · subst hret
    exact execRet_keeps_controlInv hr hinv h
  by_cases hcall : ∃ nnn, i = .call nnn
  · obtain ⟨nnn, rfl⟩ := hcall
    exact execCall_keeps_controlInv hr hinv h
  · exact controlInv_of_movesOnlyPc hr hinv (exec_movesOnlyPc hret (not_exists.mp hcall) h)

theorem cycle_keeps_controlInv (hinv : s.controlInv) (h : cycle s = .next t) : t.controlInv := by
  obtain ⟨_, _, rfl⟩ | ⟨_, hstatus, _, rfl⟩ | ⟨i, hr, _, hexec⟩ | ⟨w, hr, _, rfl⟩ := cycle_cases h
  · exact hinv
  · obtain ⟨hbound, hlive, _⟩ := hinv
    exact ⟨hbound, hlive, .inl hstatus⟩
  · exact exec_keeps_controlInv hr hinv hexec
  · exact controlInv_of_movesOnlyPc hr hinv (movesOnlyPc_advance s)

theorem State.reset_controlInv : State.reset.controlInv :=
  ⟨(by decide : State.reset.pc.toNat ≤ 0x10FE), fun k hk => absurd hk (Nat.not_lt_zero k), .inl rfl⟩

/-- A Load changes memory alone, whether or not the image fits (60_exceptions.md R184). -/
theorem State.load_eq_with_mem (s : State) (bytes : List Byte) : s.load bytes = { s with mem := (s.load bytes).mem } := by
  rw [State.load_eq]; split <;> rfl

theorem State.load_keeps_controlInv (bytes : List Byte) (h : s.controlInv) : (s.load bytes).controlInv := by
  rw [State.load_eq_with_mem]
  exact State.controlInv_congr rfl rfl rfl rfl rfl h

/-- A KeySet ends a wait but starts none (60_exceptions.md R186). -/
theorem State.keySet_keeps_controlInv (k : Nat) (pressed : Bool) (h : s.controlInv) : (s.keySet k pressed).controlInv := by
  obtain ⟨_, heq⟩ | ⟨_, x, _, _, _, heq⟩ | ⟨_, _, heq⟩ := State.keySet_cases s k pressed <;> rw [heq]
  · exact h
  · obtain ⟨hbound, hlive, _⟩ := h
    exact ⟨hbound, hlive, .inl rfl⟩
  · exact State.controlInv_congr rfl rfl rfl rfl rfl h

theorem step_keeps_controlInv (hinv : s.controlInv) (h : step s = .next t) : t.controlInv := by
  have htaken : ∀ es, (s.setPending es).controlInv := fun es => State.controlInv_congr rfl rfl rfl rfl rfl hinv
  obtain ⟨_, hcycle⟩ | ⟨es, _, hcycle⟩ | ⟨es, f, _, _, rfl⟩ | ⟨es, _, rfl⟩ | ⟨es, bytes, _, rfl⟩ | ⟨es, _, rfl⟩ |
    ⟨es, k, pressed, _, rfl⟩ | ⟨es, _, rfl⟩ := step_cases h
  · exact cycle_keeps_controlInv hinv hcycle
  · exact cycle_keeps_controlInv (htaken es) hcycle
  · exact htaken es
  · exact State.controlInv_congr rfl rfl rfl rfl rfl State.reset_controlInv
  · exact State.load_keeps_controlInv bytes (htaken es)
  · exact State.controlInv_congr rfl rfl rfl rfl rfl (htaken es)
  · exact State.keySet_keeps_controlInv k pressed (htaken es)
  · exact htaken es

end Sys2Proof.Machine

/-- Settles O50, by the case analysis of a step: a cycle moves PC from inside memory by 4 at most, jumps to an address its
operands can name, or returns to a live address, which some CALL pushed from inside memory. -/
theorem stepKeepsControlInv : Obligations.StepKeepsControlInv := fun _ _ => Sys2Proof.Machine.step_keeps_controlInv

/-! A faulted or waiting core (10_state.md R25, 44_keypad_timers_random.md R155, 60_exceptions.md R174, R175). -/

namespace Sys2Proof.Machine

variable {s t : State}

/-- A KeySet on a core that does not wait changes the key latch alone (60_exceptions.md R186). -/
theorem State.keySet_of_running (k : Nat) (pressed : Bool) (h : s.status = .running) :
    s.keySet k pressed = { s with keys := (s.keySet k pressed).keys } := by
  obtain ⟨_, heq⟩ | ⟨_, x, _, _, hwait, _⟩ | ⟨_, _, heq⟩ := State.keySet_cases s k pressed
  · rw [heq]
  · rw [h] at hwait; cases hwait
  · rw [heq]; rfl

theorem diagnostic_of_fault {f : Fault} (h : s.fault = some f) : diagnostic s = .noDiag := by
  simp [diagnostic, h]

theorem diagnostic_of_waiting {x : Reg} (hf : s.fault = none) (hq : s.status = .waitingForKey x) :
    diagnostic s = .idle := by
  simp [diagnostic, hf, hq]

theorem stepResult_of_fault {f : Fault} (h : s.fault = some f) : stepResult s = .faulted f := by
  simp [stepResult, cycle_of_fault h]

theorem stepResult_of_waiting {x : Reg} (hf : s.fault = none) (hq : s.status = .waitingForKey x) :
    stepResult s = .success := by
  simp [stepResult, cycle_of_waiting hf hq, hf]

end Sys2Proof.Machine

section

open Sys2Proof Sys2Proof.Machine

/-- Settles O52, by the case analysis of a step: a cycle of a faulted core answers no next state, a Load writes memory alone, a
Tick the timers alone, and a KeySet the key latch alone because the core does not wait. -/
theorem onlyResetLeavesAFault : Obligations.OnlyResetLeavesAFault := by
  intro s t f hapart hf hnoReset h
  have hrunning : s.status = .running := hapart.resolve_right (by simp [hf])
  obtain ⟨_, hcycle⟩ | ⟨es, _, hcycle⟩ | ⟨es, _, _, _, rfl⟩ | ⟨es, hp, rfl⟩ | ⟨es, bytes, hp, rfl⟩ | ⟨es, hp, rfl⟩ |
    ⟨es, k, pressed, _, rfl⟩ | ⟨es, _, rfl⟩ := step_cases h
  · rw [cycle_of_fault hf] at hcycle; cases hcycle
  · rw [cycle_of_fault (s := s.setPending es) hf] at hcycle; cases hcycle
  · exact ⟨hf, rfl, rfl, rfl, rfl, rfl, rfl, rfl, .inl rfl, .inl ⟨rfl, rfl⟩⟩
  · exact absurd (by rw [hp]; rfl) hnoReset
  · rw [State.load_eq_with_mem]
    exact ⟨hf, rfl, rfl, rfl, rfl, rfl, rfl, rfl, .inr ⟨bytes, by rw [hp]; rfl⟩, .inl ⟨rfl, rfl⟩⟩
  · exact ⟨hf, rfl, rfl, rfl, rfl, rfl, rfl, rfl, .inl rfl, .inr (by rw [hp]; rfl)⟩
  · rw [State.keySet_of_running k pressed (s := s.setPending es) hrunning]
    exact ⟨hf, rfl, rfl, rfl, rfl, rfl, rfl, rfl, .inl rfl, .inl ⟨rfl, rfl⟩⟩
  · exact ⟨hf, rfl, rfl, rfl, rfl, rfl, rfl, rfl, .inl rfl, .inl ⟨rfl, rfl⟩⟩

/-- Settles O10: the fault latch is the first check of a cycle and the wait the second. -/
theorem faultedOrWaitingCoreStepsInPlace : Obligations.FaultedOrWaitingCoreStepsInPlace := by
  constructor
  · intro s f hf
    exact ⟨cycle_of_fault hf, by rw [output, stepResult_of_fault hf, diagnostic_of_fault hf]⟩
  · intro s x hf hq
    exact ⟨cycle_of_waiting hf hq, by rw [output, stepResult_of_waiting hf hq, diagnostic_of_waiting hf hq]⟩

end

/-! Who writes VF (10_state.md R13, R14). -/

namespace Sys2Proof.Machine

variable {s t : State}

/-- A write to another register leaves the register as it is. -/
theorem State.getV_setV_of_ne {x r : Reg} (u : Byte) (h : x ≠ r) : (s.setV x u).getV r = s.getV r := by
  rw [State.getV_setV, if_neg (Ne.symm h)]

/-- A block load up to another register than VF does not reach VF. -/
theorem getV_vF_loadRegs {x : Reg} (a : Nat) (h : x ≠ vF) : (s.setRegs (loadRegs s a (blockLen x))).getV vF = s.getV vF := by
  have hx : ¬ vF.toNat < blockLen x := by
    have hlt := x.isLt
    have hne : x.toNat ≠ 15 := fun e => h (BitVec.eq_of_toNat_eq e)
    change ¬ 15 < x.toNat + 1
    omega
  rw [State.getV_setRegs, loadRegs_get _ _ _ _ vF.isLt, if_neg hx]
  rfl

/-- An instruction that neither writes VF as its flag nor names it leaves VF as it is. -/
theorem exec_keeps_vF {i : Instr} (hflag : ¬ writesFlag i) (hname : ¬ namesVF i) (h : exec i s = .next t) :
    t.getV vF = s.getV vF := by
  cases i with
  | addVxVy | subVxVy | subnVxVy | shrVxVy | shlVxVy | drwVxVyN => exact absurd trivial hflag
  | ldVxNN | addVxNN | ldVxVy | orVxVy | andVxVy | xorVxVy | rndVxNN | ldVxDT => cases h; exact State.getV_setV_of_ne _ hname
  | ldVxMem =>
    obtain rfl | rfl := suppress_or_next h
    · rfl
    · exact getV_vF_loadRegs s.i.toNat hname
  | ret => obtain ⟨_, rfl⟩ | ⟨_, rfl⟩ := execRet_cases h <;> rfl
  | call => obtain ⟨_, rfl⟩ | ⟨_, rfl⟩ := execCall_cases h <;> rfl
  | seVxNN | sneVxNN | seVxVy | sneVxVy => cases h; exact State.getV_skipIf s _ vF
  | skpVx | sknpVx =>
    obtain rfl | rfl := suppress_or_next h
    · rfl
    · exact State.getV_skipIf s _ vF
  | ldFVx | ldBVx | ldMemVx => obtain rfl | rfl := suppress_or_next h <;> rfl
  | cls | jp | ldINNN | jpV0NNN | ldVxK | ldDTVx | ldSTVx | addIVx => cases h; rfl

end Sys2Proof.Machine

/-- Settles O56, by cases on the instruction: those outside both lists write no register, or one that is not VF. -/
theorem onlyFlagWritersTouchVF : Obligations.OnlyFlagWritersTouchVF := by
  intro i s t h hchanged
  by_contra hno
  obtain ⟨hflag, hname⟩ := not_or.mp hno
  exact hchanged (Sys2Proof.Machine.exec_keeps_vF hflag hname h)

/-! The reset state (10_state.md R28, 20_memory.md R44). -/

namespace Sys2Proof.Machine

theorem Memory.blank_inside (font : Vector Byte fontSize) (j : Nat) (h : j < 80) :
    Memory.blank font (0x050 + j) = font[j] := by
  have hin : fontBase ≤ 0x050 + j ∧ 0x050 + j < fontBase + fontSize := by simp only [fontBase, fontSize]; omega
  simp only [Memory.blank, dif_pos hin, fontBase, Nat.add_sub_cancel_left]

theorem Memory.blank_outside (font : Vector Byte fontSize) (a : Nat) (h : a < 0x050 ∨ 0x0A0 ≤ a) :
    Memory.blank font a = 0#8 :=
  dif_neg (by simp only [fontBase, fontSize]; omega)

end Sys2Proof.Machine

namespace Sys2Proof

/-- In a well-formed configuration the low four bits of every font byte are zero (20_memory.md R44). -/
theorem Config.wf_font {c : Config} (h : c.wf = true) (j : Nat) (hj : j < 80) : (c.font[j]).toNat % 16 = 0 := by
  have hall : c.font.toList.all isFontByte = true := (Bool.and_eq_true_iff.mp h).2
  have hbyte : isFontByte c.font[j] = true := List.all_eq_true.mp hall _ (by simp)
  have := congrArg BitVec.toNat (eq_of_beq hbyte)
  simpa using this

theorem defaultConfig_wf : Machine.defaultConfig.wf = true := by decide

end Sys2Proof

section

open Sys2Proof Sys2Proof.Machine

/-- Settles O47: every field is read off `State.reset`, and a byte of its empty memory list is what an unlisted address reads
as. -/
theorem resetStateIsTheListedOne : Obligations.ResetStateIsTheListedOne := by
  refine ⟨fun j hj => ?_, fun a ha => ?_, State.getV_reset, rfl, rfl, rfl, fun k hk => ?_, rfl, rfl, clearFb_pixel,
    fun k hk => ?_, rfl, rfl⟩
  · rw [State.readByte_of_mem_nil rfl, Memory.blank_inside _ j hj]
  · rw [State.readByte_of_mem_nil rfl, Memory.blank_outside _ a ha]
  · exact Vector.getElem?_replicate.trans (if_pos hk)
  · exact Vector.getElem?_replicate.trans (if_pos hk)

/-- Settles O51: an empty memory list is canonical, nothing is on the call stack, and the default font is well formed. -/
theorem resetSatisfiesTheInvariants : Obligations.ResetSatisfiesTheInvariants :=
  ⟨State.reset_memory_wf, State.reset_controlInv, defaultConfig_wf, Config.wf_font defaultConfig_wf⟩

end

/-! Who writes memory (20_memory.md R40, R45, 60_exceptions.md R184, 70_reset_and_hazards.md R200). -/

namespace Sys2Proof.Machine

variable {s t : State}

/-- The bytes an instruction stores from `I` on: three digits, a block of registers, or nothing (20_memory.md R45). -/
def storedBytes (s : State) : Instr → List Byte
  | .ldBVx x => bcdDigits (s.getV x)
  | .ldMemVx x => blockRegs x s
  | _ => []

/-- An instruction leaves memory as it is, or stores its bytes from `I` on. -/
theorem exec_mem_cases {i : Instr} (h : exec i s = .next t) :
    t.mem = s.mem ∨ t.mem = Memory.writeBytes s.cfg.font s.mem s.i.toNat (storedBytes s i) := by
  cases i with
  | ldBVx | ldMemVx =>
    obtain rfl | rfl := suppress_or_next h
    · exact .inl rfl
    · exact .inr rfl
  | ldFVx | ldVxMem | drwVxVyN => obtain rfl | rfl := suppress_or_next h <;> exact .inl rfl
  | skpVx | sknpVx =>
    obtain rfl | rfl := suppress_or_next h
    · exact .inl rfl
    · exact .inl (State.skipIf_mem s _)
  | seVxNN | sneVxNN | seVxVy | sneVxVy => cases h; exact .inl (State.skipIf_mem s _)
  | ret => obtain ⟨_, rfl⟩ | ⟨_, rfl⟩ := execRet_cases h <;> exact .inl rfl
  | call => obtain ⟨_, rfl⟩ | ⟨_, rfl⟩ := execCall_cases h <;> exact .inl rfl
  | cls | jp | ldVxNN | addVxNN | ldVxVy | orVxVy | andVxVy | xorVxVy | addVxVy | subVxVy | shrVxVy | subnVxVy | shlVxVy
  | ldINNN | jpV0NNN | rndVxNN | ldVxDT | ldVxK | ldDTVx | ldSTVx | addIVx => cases h; exact .inl rfl

theorem cycle_mem_cases (h : cycle s = .next t) :
    t.mem = s.mem ∨
    (∃ i, s.runs ∧ s.fetched = .instr i ∧ t.mem = Memory.writeBytes s.cfg.font s.mem s.i.toNat (storedBytes s i)) := by
  obtain ⟨_, _, rfl⟩ | ⟨_, _, _, rfl⟩ | ⟨i, hr, hi, hexec⟩ | ⟨w, _, _, rfl⟩ := cycle_cases h
  case inr.inr.inl => exact (exec_mem_cases hexec).imp_right fun hmem => ⟨i, hr, hi, hmem⟩
  all_goals exact .inl rfl

/-- An image that fits is written from 0x200 on; a longer one is not written (60_exceptions.md R184). -/
theorem State.load_mem_cases (s : State) (bytes : List Byte) :
    (s.load bytes).mem = s.mem ∨ (s.load bytes).mem = Memory.writeBytes s.cfg.font s.mem progBase bytes := by
  rw [State.load_eq]
  split
  · exact .inl rfl
  · exact .inr rfl

theorem State.keySet_mem (s : State) (k : Nat) (pressed : Bool) : (s.keySet k pressed).mem = s.mem := by
  obtain ⟨_, h⟩ | ⟨_, x, _, _, _, h⟩ | ⟨_, _, h⟩ := State.keySet_cases s k pressed <;> rw [h] <;> rfl

/-- A step leaves memory as it is, empties the list at a Reset, or writes the bytes of one Load or of one instruction. -/
theorem step_mem_cases (h : step s = .next t) :
    t.mem = s.mem ∨
    (s.pending.head? = some .reset ∧ t.mem = []) ∨
    (∃ bytes, s.pending.head? = some (.load bytes) ∧ t.mem = Memory.writeBytes s.cfg.font s.mem progBase bytes) ∨
    (∃ i, s.runs ∧ s.stepsNext ∧ s.fetched = .instr i ∧
      t.mem = Memory.writeBytes s.cfg.font s.mem s.i.toNat (storedBytes s i)) := by
  obtain ⟨hp, hcycle⟩ | ⟨es, hp, hcycle⟩ | ⟨es, f, _, _, rfl⟩ | ⟨es, hp, rfl⟩ | ⟨es, bytes, hp, rfl⟩ | ⟨es, _, rfl⟩ |
    ⟨es, k, pressed, _, rfl⟩ | ⟨es, _, rfl⟩ := step_cases h
  · exact (cycle_mem_cases hcycle).imp_right fun ⟨i, hr, hi, hmem⟩ => .inr (.inr ⟨i, hr, .inl hp, hi, hmem⟩)
  · exact (cycle_mem_cases hcycle).imp_right fun ⟨i, hr, hi, hmem⟩ =>
      .inr (.inr ⟨i, hr, .inr (by rw [hp]; rfl), hi, hmem⟩)
  · exact .inl rfl
  · exact .inr (.inl ⟨by rw [hp]; rfl, rfl⟩)
  · exact ((s.setPending es).load_mem_cases bytes).imp_right fun hmem => .inr (.inl ⟨bytes, by rw [hp]; rfl, hmem⟩)
  · exact .inl rfl
  · exact .inl (State.keySet_mem _ k pressed)
  · exact .inl rfl

end Sys2Proof.Machine

section

open Sys2Proof Sys2Proof.Machine

/-- Settles O49, by the cases of what a step writes: the empty list is canonical, and writing bytes keeps the form. -/
theorem stepKeepsMemoryCanonical : Obligations.StepKeepsMemoryCanonical := by
  intro s t hwf h
  obtain ⟨hcfg, _⟩ := step_keeps_cfg_and_keys h
  rw [State.memoryCanonical, hcfg]
  obtain hmem | ⟨_, hmem⟩ | ⟨bytes, _, hmem⟩ | ⟨i, _, _, _, hmem⟩ := step_mem_cases h <;> rw [hmem]
  · exact hwf
  · exact Memory.wf_nil
  · exact Memory.wf_writeBytes _ _ hwf
  · exact Memory.wf_writeBytes _ _ hwf

end

namespace Sys2Proof.Machine

variable {s t : State}

/-- A byte that a write of several bytes changed lies in their span. -/
theorem inSpan_of_readByte_ne {base a : Nat} {us : List Byte} (hcfg : t.cfg = s.cfg)
    (hmem : t.mem = Memory.writeBytes s.cfg.font s.mem base us) (h : t.readByte a ≠ s.readByte a) :
    inSpan base us.length a := by
  by_contra hout
  have houtside : a < base ∨ base + us.length ≤ a := by unfold inSpan at hout; omega
  refine h ?_
  rw [State.readByte_congr (s := s.writeBytes base us) hmem hcfg, State.readByte_writeBytes_outside s base a us houtside]

/-- Only LD B and LD [I],Vx store a byte: three from `I`, or `X + 1`. -/
theorem storing_instr_of_inSpan {i : Instr} {base a : Nat} (h : inSpan base (storedBytes s i).length a) :
    (∃ x, i = .ldBVx x ∧ inSpan base 3 a) ∨ (∃ x, i = .ldMemVx x ∧ inSpan base (x.toNat + 1) a) := by
  cases i with
  | ldBVx x => exact .inl ⟨x, rfl, h⟩
  | ldMemVx x => exact .inr ⟨x, rfl, blockRegs_length s x ▸ h⟩
  | _ =>
    obtain ⟨hle, hlt⟩ := h
    exact absurd hlt (Nat.not_lt.mpr hle)

end Sys2Proof.Machine

section

open Sys2Proof Sys2Proof.Machine

/-- Settles O55, by the cases of what a step writes: a changed byte lies in the span of the bytes written. -/
theorem onlyStoresAndLoadsChangeMemory : Obligations.OnlyStoresAndLoadsChangeMemory := by
  intro s t a h hchanged
  obtain ⟨hcfg, _⟩ := step_keeps_cfg_and_keys h
  obtain hmem | ⟨hreset, _⟩ | ⟨bytes, hload, hmem⟩ | ⟨i, hr, hsteps, hi, hmem⟩ := step_mem_cases h
  · exact absurd (State.readByte_congr hmem hcfg a) hchanged
  · exact .inl hreset
  · exact .inr (.inl ⟨bytes, hload, inSpan_of_readByte_ne hcfg hmem hchanged⟩)
  · refine .inr (.inr ⟨hr, hsteps, ?_⟩)
    rw [hi]
    obtain ⟨x, rfl, hspan⟩ | ⟨x, rfl, hspan⟩ := storing_instr_of_inSpan (inSpan_of_readByte_ne hcfg hmem hchanged)
    · exact .inl ⟨x, rfl, hspan⟩
    · exact .inr ⟨x, rfl, hspan⟩

end

/-! The out-of-range policy (20_memory.md R46, D5, D24). -/

namespace Sys2Proof.Machine

/-- The model suppresses exactly under the conditions of 20_memory.md R46. -/
theorem suppressed_iff_leavesRange (s : State) (i : Instr) : suppressed s i = true ↔ leavesRange s i := by
  cases i with
  | drwVxVyN => simp [suppressed, spanLeaves_iff, leavesRange]; omega
  | ldBVx => simp [suppressed, spanLeaves_iff, leavesRange]; omega
  | ldMemVx | ldVxMem => simp [suppressed, spanLeaves_iff, blockLen, leavesRange]; omega
  | ldFVx => simp [suppressed, tableLeaves_glyphs_iff, leavesRange]
  | skpVx | sknpVx => simp [suppressed, tableLeaves_keys_iff, leavesRange]
  | _ => simp [suppressed, leavesRange]

/-- Each instruction the policy can suppress checks its condition before anything else. -/
theorem exec_of_suppressed {s : State} {i : Instr} (h : suppressed s i = true) : exec i s = suppress s := by
  cases i with
  | drwVxVyN | ldBVx | ldMemVx | ldVxMem | ldFVx | skpVx | sknpVx => exact if_pos h
  | _ => cases h

end Sys2Proof.Machine

section

open Sys2Proof Sys2Proof.Machine

/-- Settles O12: the conditions of R46 are those under which exec answers `suppress`, which only advances PC. -/
theorem suppressedInstructionOnlyAdvances : Obligations.SuppressedInstructionOnlyAdvances := by
  intro s i h
  rw [exec_of_suppressed ((suppressed_iff_leavesRange s i).mpr h), suppress_eq]

end

/-! The fetched word and what a block store puts there (20_memory.md R47, R49, R53). -/

namespace Sys2Proof.Machine

theorem wordOfBytes_toNat (first second : Byte) : (wordOfBytes first second).toNat = 256 * first.toNat + second.toNat := by
  rw [wordOfBytes, BitVec.toNat_append, ← Nat.shiftLeft_add_eq_or_of_lt second.isLt, Nat.shiftLeft_eq]
  omega

theorem State.fetchWord_toNat (s : State) :
    s.fetchWord.toNat = 256 * (s.readByte s.pc.toNat).toNat + (s.readByte (s.pc.toNat + 1)).toNat :=
  wordOfBytes_toNat _ _

/-- A block store inside memory runs: V0..VX go to memory from `I`, then `I` takes its value under the option (R125, R127). -/
theorem exec_ldMemVx_of_inside (x : Reg) (s : State) (h : s.i.toNat + x.toNat ≤ 0xFFF) :
    exec (.ldMemVx x) s = .next ((s.writeBytes s.i.toNat (blockRegs x s)).setI (indexAfterBlock x s)).advance := by
  have hfits : spanLeaves s.i.toNat (blockLen x) = false := by
    rw [spanLeaves_eq_false, blockLen]
    omega
  simp [exec, execLdMemVx, hfits]

/-- After a block store inside memory, the byte at `I + r` is `Vr`. -/
theorem readByte_blockStore (x r : Reg) (s : State) (hr : r.toNat ≤ x.toNat) (h : s.i.toNat + x.toNat ≤ 0xFFF) :
    (s.writeBytes s.i.toNat (blockRegs x s)).readByte (s.i.toNat + r.toNat) = s.getV r := by
  have hlen := blockRegs_length s x
  have hk : r.toNat < (blockRegs x s).length := by omega
  rw [State.readByte_writeBytes_inside s _ _ _ hk (by simp only [memSize]; omega), blockRegs_get s x r hk]

end Sys2Proof.Machine

section

open Sys2Proof Sys2Proof.Machine

/-- Settles O6: the fetch joins the bytes at PC and PC + 1, the first in the high half. -/
theorem fetchIsBigEndian : Obligations.FetchIsBigEndian := State.fetchWord_toNat

/-- Settles O34: after the store PC is the old `I`, where the block's first two bytes are V0 and V1. -/
theorem storesReachTheNextFetch : Obligations.StoresReachTheNextFetch := by
  intro x s hx hi hspan
  refine ⟨_, exec_ldMemVx_of_inside x s hspan, ?_⟩
  have h0 := readByte_blockStore x 0x0#4 s (Nat.zero_le _) hspan
  have h1 := readByte_blockStore x 0x1#4 s hx hspan
  rw [State.fetchWord_toNat]
  simp only [State.advance_pc, State.setI_pc, State.writeBytes_pc, State.readByte_advance, State.readByte_setI, ← hi]
  rw [← h0, ← h1]
  rfl

end

/-! The encoding table: decoder, encoder and rows (30_encoding.md R60 to R69). -/

namespace Sys2Proof

/-! The words of each format are their fields -/

section
variable {w : Word} {op : BitVec 4} {n : Nibble} {nn : Byte}

theorem encodeAddr_of_fields (hop : fieldOp w = op) : encodeAddr op (fieldNNN w) = w := by
  apply BitVec.eq_of_toNat_eq
  rw [encodeAddr_toNat, ← hop, fieldOp_toNat, fieldNNN_toNat]
  omega

theorem fieldNNN_eq_iff {nnn : Addr} (hop : fieldOp w = op) : fieldNNN w = nnn ↔ w = encodeAddr op nnn :=
  ⟨fun h => by rw [← h, encodeAddr_of_fields hop], fun h => by rw [h, fieldNNN_encodeAddr]⟩

theorem encodeXNN_of_fields (hop : fieldOp w = op) (hnn : fieldNN w = nn) : encodeXNN op (fieldX w) nn = w := by
  apply BitVec.eq_of_toNat_eq
  rw [encodeXNN_toNat, ← hop, ← hnn, fieldOp_toNat, fieldX_toNat, fieldNN_toNat]
  omega

theorem encodeXYN_of_fields (hop : fieldOp w = op) (hn : fieldN w = n) : encodeXYN op (fieldX w) (fieldY w) n = w := by
  apply BitVec.eq_of_toNat_eq
  rw [encodeXYN_toNat, ← hop, ← hn, fieldOp_toNat, fieldX_toNat, fieldY_toNat, fieldN_toNat]
  omega

end

/-- The sixteen values of a field, one per family of the decoder (30_encoding.md R61). -/
theorem nibble_cases : ∀ n : BitVec 4,
    n = 0x0#4 ∨ n = 0x1#4 ∨ n = 0x2#4 ∨ n = 0x3#4 ∨ n = 0x4#4 ∨ n = 0x5#4 ∨ n = 0x6#4 ∨ n = 0x7#4 ∨
    n = 0x8#4 ∨ n = 0x9#4 ∨ n = 0xA#4 ∨ n = 0xB#4 ∨ n = 0xC#4 ∨ n = 0xD#4 ∨ n = 0xE#4 ∨ n = 0xF#4 := by decide

/-! The fields of a word written as a number -/

@[simp] theorem fieldOp_ofNat (k : Nat) : fieldOp (BitVec.ofNat 16 k) = BitVec.ofNat 4 (k / 4096) := by
  apply BitVec.eq_of_toNat_eq
  rw [fieldOp_toNat, BitVec.toNat_ofNat, BitVec.toNat_ofNat]
  omega

@[simp] theorem fieldN_ofNat (k : Nat) : fieldN (BitVec.ofNat 16 k) = BitVec.ofNat 4 k := by
  apply BitVec.eq_of_toNat_eq
  rw [fieldN_toNat, BitVec.toNat_ofNat, BitVec.toNat_ofNat]
  omega

@[simp] theorem fieldNN_ofNat (k : Nat) : fieldNN (BitVec.ofNat 16 k) = BitVec.ofNat 8 k := by
  apply BitVec.eq_of_toNat_eq
  rw [fieldNN_toNat, BitVec.toNat_ofNat, BitVec.toNat_ofNat]
  omega

/-! Decoding an encoding: the operation field selects the family, the fixed low bits select the instruction in it. -/

theorem decode_encode (i : Instr) : decode (encode i) = .instr i := by
  cases i with
  | cls | ret => rfl
  | jp | call | ldINNN | jpV0NNN => simp [encode, decode]
  | seVxNN | sneVxNN | ldVxNN | addVxNN | rndVxNN => simp [encode, decode]
  | drwVxVyN => simp [encode, decode]
  | seVxVy | sneVxVy => simp [encode, decode, decodeIfLowZero]
  | ldVxVy | orVxVy | andVxVy | xorVxVy | addVxVy | subVxVy | shrVxVy | subnVxVy | shlVxVy =>
    simp [encode, decode, decodeAlu]
  | skpVx | sknpVx => simp [encode, decode, decodeKey]
  | ldVxDT | ldVxK | ldDTVx | ldSTVx | addIVx | ldFVx | ldBVx | ldMemVx | ldVxMem => simp [encode, decode, decodeMisc]

/-- Family 0 compares the whole word (30_encoding.md R66). -/
theorem decodeFixed_of_fieldOp_zero {w : Word} (hop : fieldOp w = 0x0#4) :
    decodeFixed w =
      if w = 0x00E0#16 then .instr .cls else if w = 0x00EE#16 then .instr .ret else .unknown w := by
  have hcls : fieldNNN w = 0x0E0#12 ↔ w = 0x00E0#16 := fieldNNN_eq_iff hop
  have hret : fieldNNN w = 0x0EE#12 ↔ w = 0x00EE#16 := fieldNNN_eq_iff hop
  simp only [decodeFixed, hcls, hret]

/-! Encoding what was decoded, family by family -/

section
variable {w : Word} {i j : Instr}

theorem encode_of_decodeFixed (hop : fieldOp w = 0x0#4) (h : decodeFixed w = .instr i) : encode i = w := by
  rw [decodeFixed_of_fieldOp_zero hop] at h
  split_ifs at h with hw hw <;> cases h <;> exact hw.symm

theorem encode_of_decodeIfLowZero (hj : fieldN w = 0x0#4 → encode j = w) (h : decodeIfLowZero w j = .instr i) :
    encode i = w := by
  simp only [decodeIfLowZero] at h
  split_ifs at h with hn
  cases h
  exact hj hn

theorem encode_of_decodeAlu (hop : fieldOp w = 0x8#4) (h : decodeAlu w = .instr i) : encode i = w := by
  simp only [decodeAlu] at h
  split_ifs at h with hn hn hn hn hn hn hn hn hn <;> cases h <;> exact encodeXYN_of_fields hop hn

theorem encode_of_decodeKey (hop : fieldOp w = 0xE#4) (h : decodeKey w = .instr i) : encode i = w := by
  simp only [decodeKey] at h
  split_ifs at h with hnn hnn <;> cases h <;> exact encodeXNN_of_fields hop hnn

theorem encode_of_decodeMisc (hop : fieldOp w = 0xF#4) (h : decodeMisc w = .instr i) : encode i = w := by
  simp only [decodeMisc] at h
  split_ifs at h with hnn hnn hnn hnn hnn hnn hnn hnn hnn <;> cases h <;> exact encodeXNN_of_fields hop hnn

theorem encode_of_decode (h : decode w = .instr i) : encode i = w := by
  rcases nibble_cases (fieldOp w) with
    hop | hop | hop | hop | hop | hop | hop | hop | hop | hop | hop | hop | hop | hop | hop | hop <;>
    simp only [decode, hop, BitVec.reduceEq, ↓reduceIte, Decoded.instr.injEq] at h
  · exact encode_of_decodeFixed hop h
  · subst h; exact encodeAddr_of_fields hop
  · subst h; exact encodeAddr_of_fields hop
  · subst h; exact encodeXNN_of_fields hop rfl
  · subst h; exact encodeXNN_of_fields hop rfl
  · exact encode_of_decodeIfLowZero (encodeXYN_of_fields hop) h
  · subst h; exact encodeXNN_of_fields hop rfl
  · subst h; exact encodeXNN_of_fields hop rfl
  · exact encode_of_decodeAlu hop h
  · exact encode_of_decodeIfLowZero (encodeXYN_of_fields hop) h
  · subst h; exact encodeAddr_of_fields hop
  · subst h; exact encodeAddr_of_fields hop
  · subst h; exact encodeXNN_of_fields hop rfl
  · subst h; exact encodeXYN_of_fields hop rfl
  · exact encode_of_decodeKey hop h
  · exact encode_of_decodeMisc hop h

end

/-! The rows of the table -/

open Laws.EncodingInRow in
theorem encode_matchesWord (i : Instr) : i.matchesWord (encode i) = true := by
  cases i with
  | cls | ret => rfl
  | jp | call | ldINNN | jpV0NNN => exact inRow (addr ..) (by rfl)
  | seVxNN | sneVxNN | ldVxNN | addVxNN | rndVxNN => exact inRow (xnn ..) (by rfl)
  | drwVxVyN => exact inRow (xyn ..) (by rfl)
  | seVxVy | sneVxVy | ldVxVy | orVxVy | andVxVy | xorVxVy | addVxVy | subVxVy | shrVxVy | subnVxVy | shlVxVy =>
    exact inRow (xys ..) (by rfl)
  | skpVx | sknpVx | ldVxDT | ldVxK | ldDTVx | ldSTVx | addIVx | ldFVx | ldBVx | ldMemVx | ldVxMem =>
    exact inRow (xss ..) (by rfl)

section
variable {w m : Word}

theorem fieldOp_of_and_F000 (h : (w &&& 0xF000#16 == m) = true) : fieldOp w = fieldOp m := by
  rw [← eq_of_beq h, and_F000, fieldOp_encodeAddr]

theorem fields_of_and_F00F (h : (w &&& 0xF00F#16 == m) = true) : fieldOp w = fieldOp m ∧ fieldN w = fieldN m := by
  rw [← eq_of_beq h, and_F00F, fieldOp_encodeXYN, fieldN_encodeXYN]
  exact ⟨rfl, rfl⟩

theorem fields_of_and_F0FF (h : (w &&& 0xF0FF#16 == m) = true) : fieldOp w = fieldOp m ∧ fieldNN w = fieldNN m := by
  rw [← eq_of_beq h, and_F0FF, fieldOp_encodeXNN, fieldNN_encodeXNN]
  exact ⟨rfl, rfl⟩

/-- The mask FFFF keeps every bit. -/
theorem eq_of_and_FFFF (h : (w &&& 0xFFFF#16 == m) = true) : w = m := by
  rw [← eq_of_beq h, show (0xFFFF#16 : Word) = BitVec.allOnes 16 from rfl, BitVec.and_allOnes]

end

/-- A word of a row decodes to an instruction of that row: the row's mask fixes the fields the decoder looks at. -/
theorem decode_of_matchesWord {i : Instr} {w : Word} (h : i.matchesWord w = true) :
    ∃ j, decode w = .instr j ∧ j.row = i.row := by
  cases i with
  | cls => exact ⟨.cls, by rw [eq_of_and_FFFF h]; rfl, rfl⟩
  | ret => exact ⟨.ret, by rw [eq_of_and_FFFF h]; rfl, rfl⟩
  | jp | call | ldINNN | jpV0NNN | seVxNN | sneVxNN | ldVxNN | addVxNN | rndVxNN | drwVxVyN =>
    simp [decode, fieldOp_of_and_F000 h, Instr.row]
  | seVxVy | sneVxVy => simp [decode, fields_of_and_F00F h, decodeIfLowZero, Instr.row]
  | ldVxVy | orVxVy | andVxVy | xorVxVy | addVxVy | subVxVy | shrVxVy | subnVxVy | shlVxVy =>
    simp [decode, fields_of_and_F00F h, decodeAlu, Instr.row]
  | skpVx | sknpVx => simp [decode, fields_of_and_F0FF h, decodeKey, Instr.row]
  | ldVxDT | ldVxK | ldDTVx | ldSTVx | addIVx | ldFVx | ldBVx | ldMemVx | ldVxMem =>
    simp [decode, fields_of_and_F0FF h, decodeMisc, Instr.row]

/-! The unknown words of each family -/

section
variable {w : Word}

theorem decodeFixed_eq_unknown (hop : fieldOp w = 0x0#4) :
    decodeFixed w = .unknown w ↔ w ≠ 0x00E0#16 ∧ w ≠ 0x00EE#16 := by
  rw [decodeFixed_of_fieldOp_zero hop]
  split_ifs <;> simp [*]

theorem decodeIfLowZero_eq_unknown (i : Instr) : decodeIfLowZero w i = .unknown w ↔ fieldN w ≠ 0x0#4 := by
  simp [decodeIfLowZero]

theorem decodeAlu_eq_unknown :
    decodeAlu w = .unknown w ↔ fieldN w ∈ [0x8#4, 0x9#4, 0xA#4, 0xB#4, 0xC#4, 0xD#4, 0xF#4] := by
  simp only [decodeAlu]
  generalize fieldN w = n
  split_ifs <;> simp [*]
  bv_omega

theorem decodeKey_eq_unknown : decodeKey w = .unknown w ↔ fieldNN w ∉ [0x9E#8, 0xA1#8] := by
  simp only [decodeKey]
  split_ifs <;> simp [*]

theorem decodeMisc_eq_unknown :
    decodeMisc w = .unknown w ↔
      fieldNN w ∉ [0x07#8, 0x0A#8, 0x15#8, 0x18#8, 0x1E#8, 0x29#8, 0x33#8, 0x55#8, 0x65#8] := by
  simp only [decodeMisc]
  split_ifs <;> simp [*]

theorem decode_eq_unknown_iff : decode w = .unknown w ↔ isUnknownWord w = true := by
  rcases nibble_cases (fieldOp w) with
    hop | hop | hop | hop | hop | hop | hop | hop | hop | hop | hop | hop | hop | hop | hop | hop <;>
    simp [decode, isUnknownWord, hop, decodeFixed_eq_unknown, decodeIfLowZero_eq_unknown, decodeAlu_eq_unknown,
      decodeKey_eq_unknown, decodeMisc_eq_unknown]

end

end Sys2Proof

section

open Sys2Proof

/-- Settles O1: the fields of each format read back, and they select the instruction's branch of the decoder. -/
theorem encodedInstructionsDecodeBack : Obligations.EncodedInstructionsDecodeBack := decode_encode

/-- Settles O2: in each family the fields the decoder reads and the ones it compares make up the whole word. -/
theorem decodedWordsEncodeBack : Obligations.DecodedWordsEncodeBack := fun _ _ => encode_of_decode

/-- Settles O3: a decoded word is the encoding of its instruction, which lies in its row; rows are disjoint because the
decoder answers one row for every row the word lies in. -/
theorem decoderSelectsTheUniqueRow : Obligations.DecoderSelectsTheUniqueRow := by
  refine ⟨fun w i h => ?_, fun w i => decode_of_matchesWord, fun w i j hi hj => ?_⟩
  · rw [← encode_of_decode h]
    exact encode_matchesWord i
  · obtain ⟨k, hk, hki⟩ := decode_of_matchesWord hi
    obtain ⟨l, hl, hlj⟩ := decode_of_matchesWord hj
    obtain rfl : k = l := Decoded.instr.inj (hk.symm.trans hl)
    exact hki.symm.trans hlj

/-- Settles O4: family by family, what the decoder leaves over is what the table of R69 lists. -/
theorem unknownWordsAreTheListedOnes : Obligations.UnknownWordsAreTheListedOnes := fun _ => decode_eq_unknown_iff

/-- Settles O5: eight of the words are encodings, two are in the table of unknown words. -/
theorem sampleWordsDecode : Obligations.SampleWordsDecode :=
  ⟨decode_encode .cls, decode_encode (.call 0xFFF#12), decode_encode (.seVxNN 0xA#4 0x7F#8),
    decode_encode (.shlVxVy 0xA#4 0xB#4), decode_encode (.jpV0NNN 0x234#12), decode_encode (.drwVxVyN 0x1#4 0x2#4 0xF#4),
    decode_encode (.skpVx 0x1#4), decode_encode (.ldVxMem 0xF#4),
    decode_eq_unknown_iff.mpr rfl, decode_eq_unknown_iff.mpr rfl⟩

end

/-! No instruction stops, no step is refused, and an unknown word only advances (30_encoding.md R64, R68, R70). -/

namespace Sys2Proof.Machine

variable {s t : State}

/-- The out-of-range policy answers a next state either way. -/
theorem exists_next_of_suppress_or_next (c : Bool) (s u : State) :
    ∃ t, (if c then suppress s else .next u) = Host.Outcome.next t := by
  cases c with
  | true => exact ⟨s.advance, rfl⟩
  | false => exact ⟨u, rfl⟩

theorem execRet_exists_next (s : State) : ∃ t, execRet s = .next t := by
  unfold execRet
  split
  · exact ⟨_, rfl⟩
  · exact ⟨s.latch .stackUnderflow, rfl⟩

theorem execCall_exists_next (nnn : Addr) (s : State) : ∃ t, execCall nnn s = .next t := by
  unfold execCall
  split
  · exact ⟨_, rfl⟩
  · exact ⟨s.latch .stackOverflow, rfl⟩

theorem exec_exists_next (i : Instr) (s : State) : ∃ t, exec i s = .next t := by
  cases i with
  | ret => exact execRet_exists_next s
  | call nnn => exact execCall_exists_next nnn s
  | drwVxVyN | skpVx | sknpVx | ldFVx | ldBVx | ldMemVx | ldVxMem => exact exists_next_of_suppress_or_next ..
  | _ => exact ⟨_, rfl⟩

theorem execDecoded_exists_next (d : Decoded) (s : State) : ∃ t, execDecoded d s = .next t := by
  cases d with
  | instr i => exact exec_exists_next i s
  | unknown w => exact ⟨s.advance, rfl⟩

/-- A cycle stops only by returning the latched fault again. -/
theorem cycle_exists_next (h : s.fault = none) : ∃ t, cycle s = .next t := by
  cases hq : s.status with
  | waitingForKey x => exact ⟨s, cycle_of_waiting h hq⟩
  | running =>
    cases hp : s.pcLeaves with
    | true => exact ⟨_, cycle_of_pcLeaves h hq hp⟩
    | false =>
      rw [cycle_of_runs ((State.runs_iff s).mpr ⟨h, hq, hp⟩)]
      exact execDecoded_exists_next s.fetched s

theorem cycle_ne_refused (s : State) (r : Refusal) : cycle s ≠ .refused r := by
  cases hf : s.fault with
  | some f => simp [cycle_of_fault hf]
  | none =>
    obtain ⟨t, ht⟩ := cycle_exists_next hf
    simp [ht]

theorem fire_ne_refused (e : Event) (s : State) (r : Refusal) : fire e s ≠ .refused r := by
  cases e with
  | step => exact cycle_ne_refused s r
  | reset | load | tick | keySet | framebufferSnapshot | debugSnapshot => simp [fire]

theorem goOn_ne_refused {o : Host.Outcome State Fault Refusal} {r : Refusal} (h : o ≠ .refused r) : goOn s o ≠ .refused r := by
  cases o with
  | refused r' => exact h
  | next | fault => simp [goOn]

theorem step_ne_refused (s : State) (r : Refusal) : step s ≠ .refused r := by
  unfold step nextEvent
  cases s.pending with
  | nil => exact cycle_ne_refused s r
  | cons e es => exact goOn_ne_refused (fire_ne_refused e _ r)

/-- A Step is taken off the agenda, if it is listed there, and then runs its cycle. -/
theorem step_of_stepsNext (hn : s.stepsNext) (h : cycle (s.setPending s.agendaAfter) = .next t) : step s = .next t := by
  unfold State.agendaAfter at h
  unfold step nextEvent
  rcases hn with hp | hp
  · have hs : s.setPending [] = s := by rw [← hp]; rfl
    rw [hp] at h ⊢
    rwa [List.tail_nil, hs] at h
  · obtain ⟨es, hp⟩ := List.head?_eq_some_iff.mp hp
    rw [hp] at h ⊢
    exact congrArg (goOn (s.setPending es)) h

theorem cycle_of_unknown {w : Word} (hr : s.runs) (hw : s.fetched = .unknown w) : cycle s = .next s.advance := by
  rw [cycle_of_runs hr, hw]
  rfl

theorem output_step_of_unknown {w : Word} (hr : s.runs) (hw : s.fetched = .unknown w) :
    output .step s = .stepped .success (.unknownOpcode w s.pc) := by
  obtain ⟨hf, hq, hp⟩ := (State.runs_iff s).mp hr
  have hresult : stepResult s = .success := by simp [stepResult, cycle_of_unknown hr hw, hf]
  have hdiagnostic : diagnostic s = .unknownOpcode w s.pc := by simp [diagnostic, hf, hq, hp, hw]
  rw [output, hresult, hdiagnostic]

end Sys2Proof.Machine

section

open Sys2Proof Sys2Proof.Machine

/-- Settles O59: a suppressed or faulting instruction answers a next state too, and a cycle stops only by a latched fault. -/
theorem noInstructionStopsTheMachine : Obligations.NoInstructionStopsTheMachine := ⟨exec_exists_next, step_ne_refused⟩

/-- Settles O8: taking the Step off the agenda changes nothing the cycle reads. -/
theorem unknownWordOnlyAdvances : Obligations.UnknownWordOnlyAdvances := by
  intro s w hr hn hw
  exact ⟨step_of_stepsNext hn (cycle_of_unknown (s := s.setPending s.agendaAfter) hr hw), output_step_of_unknown hr hw⟩

end

/-! The next event of a running core, and the fetch outside memory (40_cycle_control.md R80, R81; 60_exceptions.md R176). -/

namespace Sys2Proof.Machine

variable {s : State}

theorem cycle_of_instr {i : Instr} (hr : s.runs) (hi : s.fetched = .instr i) : cycle s = exec i s := by
  rw [cycle_of_runs hr, hi]
  rfl

theorem stepResult_of_pcLeaves (hf : s.fault = none) (hq : s.status = .running) (hp : s.pcLeaves = true) :
    stepResult s = .faulted .pcOutOfRange := by
  simp [stepResult, cycle_of_pcLeaves hf hq hp]

theorem diagnostic_of_pcLeaves (hf : s.fault = none) (hq : s.status = .running) (hp : s.pcLeaves = true) :
    diagnostic s = .noDiag := by
  simp [diagnostic, hf, hq, hp]

end Sys2Proof.Machine

section

open Sys2Proof Sys2Proof.Machine

/-- Settles O7: taking the Step off the agenda changes nothing the fetch reads, and every instruction answers a next state. -/
theorem stepRunsTheFetchedInstruction : Obligations.StepRunsTheFetchedInstruction := by
  intro s i hr hn hi
  obtain ⟨t, ht⟩ := exec_exists_next i (s.setPending s.agendaAfter)
  have hcycle : cycle (s.setPending s.agendaAfter) = .next t :=
    (cycle_of_instr (s := s.setPending s.agendaAfter) hr hi).trans ht
  exact (step_of_stepsNext hn hcycle).trans ht.symm

/-- Settles O9: the check of PC is the cycle's last before the fetch, and it latches the fault. -/
theorem fetchOutsideMemoryLatches : Obligations.FetchOutsideMemoryLatches := by
  intro s hf hq hpc
  have hp := (State.pcLeaves_iff s).mpr hpc
  exact ⟨cycle_of_pcLeaves hf hq hp, by rw [output, stepResult_of_pcLeaves hf hq hp, diagnostic_of_pcLeaves hf hq hp]⟩

end

/-! Control transfer: what each instruction does to PC and the call stack, and its frame (40_cycle_control.md R82 to R92). -/

namespace Sys2Proof.Machine

/-! Frames -/

/-- Setting PC changes nothing the frame speaks of. -/
theorem frame_setPc (c : Changes) (s : State) (w : CodeAddr) : frame c s (s.setPc w) :=
  ⟨fun _ _ => rfl, fun _ _ => rfl, fun _ => rfl, fun _ => ⟨rfl, rfl⟩, fun _ => rfl, fun _ => rfl, fun _ => rfl, fun _ => rfl,
    fun _ => rfl, fun _ => rfl, rfl, rfl, rfl⟩

theorem frame_skipIf (c : Changes) (s : State) (b : Bool) : frame c s (s.skipIf b) := by
  cases b <;> exact frame_setPc c s _

/-- Any change of PC, SP and STACK keeps to the frame of an instruction that may change the call stack. -/
theorem frame_control (s : State) (pc : CodeAddr) (sp : Fin (stackDepth + 1)) (stack : Vector ReturnAddr stackDepth) :
    frame { stack := True } s { s with pc := pc, sp := sp, stack := stack } :=
  ⟨fun _ _ => rfl, fun _ _ => rfl, fun _ => rfl, fun h => absurd trivial h, fun _ => rfl, fun _ => rfl, fun _ => rfl,
    fun _ => rfl, fun _ => rfl, fun _ => rfl, rfl, rfl, rfl⟩

variable {s : State}

/-! Jumps -/

/-- A 12-bit target keeps its value in PC. -/
theorem addr_setWidth_toNat (nnn : Addr) : (nnn.setWidth 16).toNat = nnn.toNat :=
  BitVec.toNat_setWidth_of_le (by decide)

/-- The sum JP V0 writes is not reduced (D6; log 12). -/
theorem addr_add_byte_toNat (nnn : Addr) (u : Byte) :
    (BitVec.ofNat 16 (nnn.toNat + u.toNat)).toNat = nnn.toNat + u.toNat := by
  have := nnn.isLt
  have := u.isLt
  rw [BitVec.toNat_ofNat]
  omega

theorem jumpOffsetReg_of_v0 (nnn : Addr) (h : s.cfg.jumpOffsetReg = .v0) : jumpOffsetReg nnn s = 0x0#4 := by
  simp only [jumpOffsetReg, h]

/-- Under the option VX the offset register is named by the top nibble of NNN (D29; log 31). -/
theorem jumpOffsetReg_of_vx (nnn : Addr) (h : s.cfg.jumpOffsetReg = .vx) :
    jumpOffsetReg nnn s = BitVec.ofNat 4 (nnn.toNat / 256) := by
  simp only [jumpOffsetReg, h, BitVec.extractLsb', Nat.shiftRight_eq_div_pow, Nat.reducePow]

/-! Call and return -/

theorem exec_call_of_room (nnn : Addr) (h : s.sp.val < stackDepth) :
    exec (.call nnn) s = .next ((s.push s.npc h).setPc (nnn.setWidth 16)) := dif_pos h

theorem exec_call_of_full (nnn : Addr) (h : s.sp.val = 16) : exec (.call nnn) s = .next (s.latch .stackOverflow) :=
  dif_neg (by rw [h]; decide)

theorem exec_ret_of_live (h : 0 < s.sp.val) : exec .ret s = .next (s.pop.setPc (s.top h)) := dif_pos h

theorem exec_ret_of_empty (h : s.sp.val = 0) : exec .ret s = .next (s.latch .stackUnderflow) :=
  dif_neg (by rw [h]; decide)

/-- The newest entry after a push is what was pushed. -/
theorem State.top_push (w : ReturnAddr) (h : s.sp.val < stackDepth) : (s.push w h).top (Nat.succ_pos _) = w := by
  simp [State.top]

/-! Skips -/

theorem skipIf_decide_pc (s : State) (p : Prop) [Decidable p] :
    (s.skipIf (decide p)).pc = if p then s.pc + 4#16 else s.pc + 2#16 := by
  simp only [State.skipIf_pc, decide_eq_true_eq, BitVec.add_assoc, BitVec.reduceAdd]

/-- A skip that is taken if `p` holds. -/
theorem skip_if (s : State) (p : Prop) [Decidable p] :
    ∃ t, (.next (s.skipIf (decide p)) : Host.Outcome State Fault Refusal) = .next t ∧
      t.pc = (if p then s.pc + 4#16 else s.pc + 2#16) ∧ frame {} s t :=
  ⟨_, rfl, skipIf_decide_pc s p, frame_skipIf {} s _⟩

/-- A skip that is taken unless `p` holds. -/
theorem skip_unless (s : State) (p : Prop) [Decidable p] :
    ∃ t, (.next (s.skipIf (decide ¬ p)) : Host.Outcome State Fault Refusal) = .next t ∧
      t.pc = (if p then s.pc + 2#16 else s.pc + 4#16) ∧ frame {} s t := by
  simpa only [ite_not] using skip_if s (¬ p)

end Sys2Proof.Machine

section

open Sys2Proof Sys2Proof.Machine

/-- Settles O14: the 12-bit target fits in PC, and setting PC to what it already is changes nothing. -/
theorem jumpSetsProgramCounter : Obligations.JumpSetsProgramCounter := by
  intro nnn s
  refine ⟨_, rfl, addr_setWidth_toNat nnn, frame_setPc {} s _, fun hself => ?_⟩
  have htarget : nnn.setWidth 16 = s.pc := BitVec.eq_of_toNat_eq ((addr_setWidth_toNat nnn).trans hself.symm)
  rw [htarget]
  rfl

/-- Settles O15: the sum of a 12-bit address and a byte fits in PC, and the option names the register. -/
theorem jumpWithOffsetAddsTheRegister : Obligations.JumpWithOffsetAddsTheRegister := by
  intro nnn s
  refine ⟨_, rfl, fun h => ?_, fun h => ?_, frame_setPc {} s _⟩
  · rw [State.setPc_pc, addr_add_byte_toNat, jumpOffsetReg_of_v0 nnn h]
  · rw [State.setPc_pc, addr_add_byte_toNat, jumpOffsetReg_of_vx nnn h]

/-- Settles O16: CALL with room is a push and a jump; a full stack fails its check. -/
theorem callPushesOrOverflows : Obligations.CallPushesOrOverflows := by
  intro nnn s
  refine ⟨fun hroom => ⟨_, exec_call_of_room nnn hroom, addr_setWidth_toNat nnn, rfl, ?_, fun k hk => ?_,
    frame_control s _ _ _⟩, exec_call_of_full nnn⟩
  · rw [State.setPc_stack, State.push_stack_get, if_pos rfl, State.npc_eq]
  · rw [State.setPc_stack, State.push_stack_get, if_neg hk]

/-- Settles O17: RET with a live entry is a pop and a jump to it; an empty stack fails its check. -/
theorem returnPopsOrUnderflows : Obligations.ReturnPopsOrUnderflows := fun s =>
  ⟨fun hlive => ⟨_, exec_ret_of_live hlive, (State.top_eq s hlive).symm, rfl, rfl, frame_control s _ _ _⟩, exec_ret_of_empty⟩

/-- Settles O18: RET finds the address CALL has just pushed on top, and the cell it was pushed to lies above the live ones. -/
theorem callThenReturnComesBack : Obligations.CallThenReturnComesBack := by
  intro nnn s hroom
  refine ⟨_, _, exec_call_of_room nnn hroom, exec_ret_of_live (Nat.succ_pos _), State.top_push s.npc hroom, rfl,
    fun k hk => ?_, frame_control s _ _ _⟩
  rw [State.setPc_stack, State.pop_stack, State.setPc_stack, State.push_stack_get, if_neg hk.ne]

/-- Settles O19: SE and SNE are one skip, taken if the register is the immediate, or unless it is. -/
theorem immediateSkipsCompareTheRegister : Obligations.ImmediateSkipsCompareTheRegister := fun x nn s =>
  ⟨skip_if s (s.getV x = nn), skip_unless s (s.getV x = nn)⟩

/-- Settles O20: SE and SNE are one skip, taken if the registers are equal, or unless they are. -/
theorem registerSkipsCompareTheRegisters : Obligations.RegisterSkipsCompareTheRegisters := fun x y s =>
  ⟨skip_if s (s.getV x = s.getV y), skip_unless s (s.getV x = s.getV y)⟩

end

/-! PC after every instruction (40_cycle_control.md R91). -/

namespace Sys2Proof.Machine

variable {s t : State}

/-- A key skip, suppressed or not, is taken exactly if the latch has the key and its flag is `pressed`: an index above 15 names
no key (D5; log 11). -/
theorem keySkip_eq (u : Byte) (pressed : Bool) (s : State) :
    (if tableLeaves nkeys u then suppress s else .next (s.skipIf (s.key u.toNat == pressed))) =
      Host.Outcome.next (s.skipIf (decide (s.keys[u.toNat]? = some pressed))) := by
  split
  next hleaves =>
    have hnone : s.keys[u.toNat]? = none := Vector.getElem?_eq_none ((tableLeaves_iff _ _).mp hleaves)
    rw [hnone]
    rfl
  next hinside =>
    have hkey : u.toNat < nkeys := Nat.lt_of_not_le fun h => hinside ((tableLeaves_iff _ _).mpr h)
    simp [State.key, hkey, beq_eq_decide]

theorem exec_skpVx_eq (x : Reg) (s : State) :
    exec (.skpVx x) s = .next (s.skipIf (decide (s.keys[(s.getV x).toNat]? = some true))) := by
  rw [← keySkip_eq, beq_true]
  rfl

theorem exec_sknpVx_eq (x : Reg) (s : State) :
    exec (.sknpVx x) s = .next (s.skipIf (decide (s.keys[(s.getV x).toNat]? = some false))) := by
  rw [← keySkip_eq, beq_false]
  rfl

/-- A skip from inside memory moves PC by 4 or 2, without wrapping. -/
theorem skipIf_decide_pc_toNat (hpc : s.pc.toNat ≤ 0x0FFE) (p : Prop) [Decidable p] :
    (s.skipIf (decide p)).pc.toNat = if p then s.pc.toNat + 4 else s.pc.toNat + 2 := by
  rw [skipIf_decide_pc]
  split <;> · rw [BitVec.toNat_add, BitVec.toNat_ofNat]; omega

/-- The row of JP V0 in the table names the model's offset register. -/
theorem pcAfter_jpV0NNN (nnn : Addr) (s : State) :
    pcAfter s (.jpV0NNN nnn) = nnn.toNat + (s.getV (jumpOffsetReg nnn s)).toNat := by
  cases h : s.cfg.jumpOffsetReg with
  | v0 => rw [jumpOffsetReg_of_v0 nnn h]; simp only [pcAfter, h]
  | vx => rw [jumpOffsetReg_of_vx nnn h]; simp only [pcAfter, h]

theorem execRet_pc (h : execRet s = .next t) : t.pc.toNat = pcAfter s .ret := by
  obtain ⟨hsp, rfl⟩ | ⟨hsp, rfl⟩ := execRet_cases h
  · rw [pcAfter, dif_neg hsp.ne']; rfl
  · rw [pcAfter, dif_pos hsp]; rfl

theorem execCall_pc {nnn : Addr} (h : execCall nnn s = .next t) : t.pc.toNat = pcAfter s (.call nnn) := by
  obtain ⟨hsp, rfl⟩ | ⟨hsp, rfl⟩ := execCall_cases h
  · exact (addr_setWidth_toNat nnn).trans (if_neg hsp.ne).symm
  · exact (if_pos (Nat.le_antisymm (Nat.le_of_lt_succ s.sp.isLt) hsp)).symm

theorem exec_pc {i : Instr} (hpc : s.pc.toNat ≤ 0x0FFE) (h : exec i s = .next t) : t.pc.toNat = pcAfter s i := by
  cases i with
  | ret => exact execRet_pc h
  | call nnn => exact execCall_pc h
  | jp nnn => cases h; exact addr_setWidth_toNat nnn
  | jpV0NNN nnn => cases h; rw [pcAfter_jpV0NNN]; exact addr_add_byte_toNat nnn _
  | seVxNN | seVxVy => cases h; exact skipIf_decide_pc_toNat hpc _
  | sneVxNN | sneVxVy => cases h; exact (skipIf_decide_pc_toNat hpc (¬ _)).trans (ite_not ..)
  | skpVx x => rw [exec_skpVx_eq] at h; cases h; exact skipIf_decide_pc_toNat hpc _
  | sknpVx x => rw [exec_sknpVx_eq] at h; cases h; exact skipIf_decide_pc_toNat hpc _
  | ldFVx | ldBVx | ldMemVx | ldVxMem | drwVxVyN =>
    obtain rfl | rfl := suppress_or_next h <;> exact pc_add_two_toNat hpc
  | cls | ldVxNN | addVxNN | ldVxVy | orVxVy | andVxVy | xorVxVy | addVxVy | subVxVy | shrVxVy | subnVxVy | shlVxVy
  | ldINNN | rndVxNN | ldVxDT | ldVxK | ldDTVx | ldSTVx | addIVx => cases h; exact pc_add_two_toNat hpc

end Sys2Proof.Machine

/-- Settles O57, by cases on the instruction: a jump, CALL, RET or skip writes its row of the table; every other instruction,
suppressed or not, ends with the normal advance. -/
theorem programCounterFollowsTheTable : Obligations.ProgramCounterFollowsTheTable :=
  fun _ _ _ => Sys2Proof.Machine.exec_pc

/-! Immediate loads and the ALU: the destination, the flag and the frame (41_alu.md R100 to R111). -/

namespace Sys2Proof.Machine

variable {s : State}

/-! Frames -/

/-- A write of registers that keeps those outside `p`, with the normal advance, keeps to the frame that names `p`. -/
theorem frame_setRegs_advance {p : Reg → Prop} (v : Vector Byte nregs)
    (hkeep : ∀ r, ¬ p r → (s.setRegs v).getV r = s.getV r) : frame { regs := p } s (s.setRegs v).advance :=
  ⟨hkeep, fun _ _ => rfl, fun _ => rfl, fun _ => ⟨rfl, rfl⟩, fun _ => rfl, fun _ => rfl, fun _ => rfl, fun _ => rfl,
    fun _ => rfl, fun _ => rfl, rfl, rfl, rfl⟩

theorem frame_setV_advance (x : Reg) (u : Byte) : frame { regs := fun r => r = x } s (s.setV x u).advance :=
  frame_setRegs_advance _ fun _ hr => State.getV_setV_of_ne u (Ne.symm hr)

/-! Result and flag (10_state.md R13) -/

theorem State.getV_setVFlag_flag (x : Reg) (u f : Byte) : (s.setVFlag x u f).getV vF = f :=
  State.getV_setV_same _ vF f

/-- The flag, written last, spares a result in another register. -/
theorem State.getV_setVFlag_result {x : Reg} (u f : Byte) (hx : x ≠ vF) : (s.setVFlag x u f).getV x = u := by
  rw [State.getV_setVFlag, if_neg hx, if_pos rfl]

theorem State.getV_setVFlag_of_ne {x r : Reg} (u f : Byte) (hr : ¬ (r = x ∨ r = vF)) :
    (s.setVFlag x u f).getV r = s.getV r := by
  obtain ⟨hx, hF⟩ := not_or.mp hr
  rw [State.getV_setVFlag, if_neg hF, if_neg hx]

theorem frame_setVFlag_advance (x : Reg) (u f : Byte) :
    frame { regs := fun r => r = x ∨ r = vF } s (s.setVFlag x u f).advance :=
  frame_setRegs_advance _ fun _ => State.getV_setVFlag_of_ne u f

/-! Operations that two instructions share -/

/-- A load of `u` into Vx, with the normal advance. -/
theorem load_spec (s : State) (x : Reg) (u : Byte) :
    ∃ t, (.next (s.setV x u).advance : Host.Outcome State Fault Refusal) = .next t ∧
      t.getV x = u ∧ t.pc = s.pc + 2#16 ∧ frame { regs := fun r => r = x } s t :=
  ⟨_, rfl, State.getV_setV_same s x u, rfl, frame_setV_advance x u⟩

/-- The subtraction `a - b` into Vx, with no-borrow to VF and the normal advance. -/
theorem subtract_spec (s : State) (x : Reg) (a b : Byte) :
    ∃ t, (.next (s.setVFlag x (diff8 a b) (noBorrow a b)).advance : Host.Outcome State Fault Refusal) = .next t ∧
      (x ≠ vF → ((t.getV x).toNat : Int) = (a.toNat - b.toNat : Int) % 256) ∧
      (t.getV vF).toNat = (if a.toNat ≥ b.toNat then 1 else 0) ∧
      t.pc = s.pc + 2#16 ∧ frame { regs := fun r => r = x ∨ r = vF } s t := by
  refine ⟨_, rfl, fun hx => ?_, ?_, rfl, frame_setVFlag_advance x _ _⟩
  · rw [State.getV_advance, State.getV_setVFlag_result _ _ hx, diff8_toNat]
  · rw [State.getV_advance, State.getV_setVFlag_flag, noBorrow_toNat]

/-- The source of a shift as the rules give it (D30; log 31). -/
theorem shiftSource_eq (x y : Reg) (s : State) :
    shiftSource x y s = if s.cfg.shiftSrc = .vy then s.getV y else s.getV x := by
  unfold shiftSource
  cases s.cfg.shiftSrc <;> rfl

end Sys2Proof.Machine

section

open Sys2Proof Sys2Proof.Machine

/-- Settles O21: both are a load of the destination, from the word or from Vy. -/
theorem loadsWriteTheirDestination : Obligations.LoadsWriteTheirDestination := fun x y nn s =>
  ⟨load_spec s x nn, load_spec s x (s.getV y)⟩

/-- Settles O22: the destination is the only register written. -/
theorem addImmediateWrapsWithoutFlag : Obligations.AddImmediateWrapsWithoutFlag := by
  intro x nn s
  refine ⟨_, rfl, ?_, rfl, frame_setV_advance x _⟩
  rw [State.getV_advance, State.getV_setV_same, sum8_toNat]

/-- Settles O23: the destination holds the bit vectors' own or, and, exclusive or, which are bitwise. -/
theorem logicOperationsAreBitwise : Obligations.LogicOperationsAreBitwise := by
  intro x y s
  refine ⟨⟨_, rfl, rfl, frame_setV_advance x _, fun k => ?_⟩, ⟨_, rfl, rfl, frame_setV_advance x _, fun k => ?_⟩,
    ⟨_, rfl, rfl, frame_setV_advance x _, fun k => ?_⟩⟩
  · rw [State.getV_advance, State.getV_setV_same, BitVec.getLsbD_or]
  · rw [State.getV_advance, State.getV_setV_same, BitVec.getLsbD_and]
  · rw [State.getV_advance, State.getV_setV_same, BitVec.getLsbD_xor]

/-- Settles O24: the sum survives the flag unless X is F, and the carry is what VF holds in either case. -/
theorem addRegistersSetsCarry : Obligations.AddRegistersSetsCarry := by
  intro x y s
  refine ⟨_, rfl, fun hx => ?_, ?_, rfl, frame_setVFlag_advance x _ _⟩
  · rw [State.getV_advance, State.getV_setVFlag_result _ _ hx, sum8_toNat]
  · rw [State.getV_advance, State.getV_setVFlag_flag, carry_toNat]

/-- Settles O25: SUB and SUBN are one subtraction with the operands exchanged. -/
theorem subtractionsSetNoBorrow : Obligations.SubtractionsSetNoBorrow := fun x y s =>
  ⟨subtract_spec s x (s.getV x) (s.getV y), subtract_spec s x (s.getV y) (s.getV x)⟩

/-- Settles O26: both shifts read the configured source before they write, and the bit shifted out reaches VF last. -/
theorem shiftsMoveOneBitIntoVF : Obligations.ShiftsMoveOneBitIntoVF := by
  intro x y s src hsrc
  rw [← shiftSource_eq] at hsrc
  subst hsrc
  refine ⟨⟨_, rfl, fun hx => ?_, ?_, rfl, frame_setVFlag_advance x _ _⟩,
    ⟨_, rfl, fun hx => ?_, ?_, rfl, frame_setVFlag_advance x _ _⟩⟩
  · rw [State.getV_advance, State.getV_setVFlag_result _ _ hx, shr1_toNat]
  · rw [State.getV_advance, State.getV_setVFlag_flag, outRight_toNat]
  · rw [State.getV_advance, State.getV_setVFlag_result _ _ hx, shl1_toNat]
  · rw [State.getV_advance, State.getV_setVFlag_flag, outLeft_toNat]

end

/-! Index register and memory: what LD I, ADD I, LD F, LD B and the block moves do, and their frames (42_index_memory.md R120 to
R127). -/

namespace Sys2Proof.Machine

variable {s t : State}

/-! Frames -/

/-- Setting I on top of a change of registers and bytes adds I, and nothing else, to what may change. -/
theorem frame_setI_advance {p : Reg → Prop} {q : Nat → Prop} (h : frame { regs := p, bytes := q } s t.advance) (w : Index) :
    frame { regs := p, bytes := q, index := True } s (t.setI w).advance := by
  obtain ⟨hregs, hbytes, -, hrest⟩ := h
  exact ⟨hregs, hbytes, fun hi => absurd trivial hi, hrest⟩

/-- The frame of the instructions that only set I. -/
theorem frame_index (s : State) (w : Index) : frame { index := True } s (s.setI w).advance :=
  frame_setI_advance (frame_setPc _ s _) w

/-- A store of `n` bytes, with the normal advance, keeps to the frame that names their span. -/
theorem frame_writeBytes_advance {n : Nat} (base : Nat) {us : List Byte} (hn : us.length = n) :
    frame { bytes := inSpan base n } s (s.writeBytes base us).advance := by
  subst hn
  have hkeep : ∀ a, ¬ inSpan base us.length a → (s.writeBytes base us).readByte a = s.readByte a := fun _ =>
    not_imp_comm.mp (inSpan_of_readByte_ne rfl rfl)
  exact ⟨fun _ _ => rfl, hkeep, fun _ => rfl, fun _ => ⟨rfl, rfl⟩, fun _ => rfl, fun _ => rfl, fun _ => rfl, fun _ => rfl,
    fun _ => rfl, fun _ => rfl, rfl, rfl, rfl⟩

/-! The instructions inside their range (20_memory.md R46) -/

theorem exec_ldFVx_of_digit {x : Reg} (h : (s.getV x).toNat ≤ 15) :
    exec (.ldFVx x) s = .next (s.setI (glyphAddress (s.getV x))).advance := by
  have hdigit : ¬ tableLeaves glyphCount (s.getV x) = true := by
    rw [tableLeaves_glyphs_iff]
    omega
  exact if_neg hdigit

theorem exec_ldBVx_of_inside (x : Reg) (h : s.i.toNat + 2 ≤ 0xFFF) :
    exec (.ldBVx x) s = .next (s.writeBytes s.i.toNat (bcdDigits (s.getV x))).advance := by
  have hfits : ¬ spanLeaves s.i.toNat 3 = true := by
    rw [spanLeaves_iff]
    omega
  exact if_neg hfits

/-- A block load inside memory runs: V0..VX come from memory at `I`, then `I` takes its value under the option (R126, R127). -/
theorem exec_ldVxMem_of_inside (x : Reg) (h : s.i.toNat + x.toNat ≤ 0xFFF) :
    exec (.ldVxMem x) s = .next ((s.setRegs (loadRegs s s.i.toNat (blockLen x))).setI (indexAfterBlock x s)).advance := by
  have hfits : ¬ spanLeaves s.i.toNat (blockLen x) = true := by
    rw [spanLeaves_iff, blockLen]
    omega
  exact if_neg hfits

/-! The values written -/

/-- The glyph of a digit lies below 65536, so its address is not reduced. -/
theorem glyphAddress_toNat {d : Byte} (h : d.toNat ≤ 15) : (glyphAddress d).toNat = 0x50 + 5 * d.toNat := by
  rw [glyphAddress, BitVec.toNat_ofNat]
  simp only [fontBase, glyphBytes]
  omega

/-- After a store of the digits of `u` inside memory, byte `k` of the three is digit `k`. -/
theorem readByte_digitStore (u : Byte) (k : Nat) (hk : k < 3) (h : s.i.toNat + 2 ≤ 0xFFF) :
    ((s.writeBytes s.i.toNat (bcdDigits u)).readByte (s.i.toNat + k)).toNat =
      [u.toNat / 100, u.toNat / 10 % 10, u.toNat % 10][k] := by
  have hlen := bcdDigits_length u
  rw [State.readByte_writeBytes_inside s _ k _ (by omega) (by simp only [memSize]; omega)]
  simp only [← bcdDigits_toNat, List.getElem_map]

/-- A block load reads the registers up to VX from memory and keeps those above. -/
theorem getV_setRegs_loadRegs (s : State) (x r : Reg) (a : Nat) :
    (s.setRegs (loadRegs s a (blockLen x))).getV r = if r.toNat ≤ x.toNat then s.readByte (a + r.toNat) else s.getV r := by
  rw [State.getV_setRegs, loadRegs_get s _ _ _ r.isLt]
  simp only [blockLen, Nat.lt_succ_iff]
  rfl

theorem indexAfterBlock_of_none (x : Reg) (h : s.cfg.indexIncrement = .none) : indexAfterBlock x s = s.i := by
  simp only [indexAfterBlock, h]

theorem indexAfterBlock_toNat_of_xPlus1 (x : Reg) (h : s.cfg.indexIncrement = .xPlus1) :
    (indexAfterBlock x s).toNat = (s.i.toNat + x.toNat + 1) % 65536 := by
  simp only [indexAfterBlock, h, BitVec.toNat_ofNat]
  rfl

end Sys2Proof.Machine

section

open Sys2Proof Sys2Proof.Machine

/-- Settles O31: the bytes stored are V0..VX in order, and the bytes outside their span are read as before. -/
theorem blockStoreWritesTheRegisters : Obligations.BlockStoreWritesTheRegisters := fun x s h =>
  ⟨_, exec_ldMemVx_of_inside x s h, fun r hr => readByte_blockStore x r s hr h, indexAfterBlock_of_none x,
    indexAfterBlock_toNat_of_xPlus1 x, rfl,
    frame_setI_advance (frame_writeBytes_advance _ (blockRegs_length s x)) _⟩

/-- Settles O32: each register up to VX is read from its place, and the registers above are kept. -/
theorem blockLoadReadsTheRegisters : Obligations.BlockLoadReadsTheRegisters := by
  intro x s h
  have hkeep : ∀ r : Reg, ¬ r.toNat ≤ x.toNat →
      (s.setRegs (loadRegs s s.i.toNat (blockLen x))).getV r = s.getV r := fun r hr => by
    rw [getV_setRegs_loadRegs, if_neg hr]
  refine ⟨_, exec_ldVxMem_of_inside x h, fun r hr => ?_, indexAfterBlock_of_none x, indexAfterBlock_toNat_of_xPlus1 x, rfl,
    frame_setI_advance (frame_setRegs_advance _ hkeep) _⟩
  rw [State.getV_advance, State.getV_setI, getV_setRegs_loadRegs, if_pos hr]

/-- Settles O33: the load reads the bytes at the old `I`, which the store left equal to the registers. -/
theorem blockLoadUndoesBlockStore : Obligations.BlockLoadUndoesBlockStore := by
  intro x s h
  obtain ⟨t, ht, hstored, -⟩ := blockStoreWritesTheRegisters x s h
  refine ⟨t, ht, fun u hi hmem => ?_⟩
  obtain ⟨w, hw, hloaded, -⟩ := blockLoadReadsTheRegisters x u (hi ▸ h)
  refine ⟨w, hw, fun r hr => ?_⟩
  calc w.getV r = u.readByte (u.i.toNat + r.toNat) := hloaded r hr
    _ = t.readByte (s.i.toNat + r.toNat) := by rw [hmem, hi]
    _ = s.getV r := hstored r hr

/-- Settles O27: the 12-bit NNN keeps its value in I. -/
theorem loadIndexSetsI : Obligations.LoadIndexSetsI := fun nnn s =>
  ⟨_, rfl, addr_setWidth_toNat nnn, rfl, frame_index s _⟩

/-- Settles O28: the sum is narrowed to the 16 bits of I, and I is all that changes. -/
theorem addIndexWrapsWithoutFlag : Obligations.AddIndexWrapsWithoutFlag := fun _ s =>
  ⟨_, rfl, BitVec.toNat_ofNat _ _, rfl, frame_index s _⟩

/-- Settles O29: a digit has a glyph, and the glyph's address is set in I. -/
theorem fontLookupGivesGlyphAddress : Obligations.FontLookupGivesGlyphAddress := fun _ s h =>
  ⟨_, exec_ldFVx_of_digit h, glyphAddress_toNat h, rfl, frame_index s _⟩

/-- Settles O30: the three bytes stored are the digits, and no byte outside their span changes. -/
theorem bcdStoreWritesThreeDigits : Obligations.BcdStoreWritesThreeDigits := fun x s h =>
  ⟨_, exec_ldBVx_of_inside x h, readByte_digitStore (s.getV x) 0 (by decide) h, readByte_digitStore (s.getV x) 1 (by decide) h,
    readByte_digitStore (s.getV x) 2 (by decide) h, rfl, frame_writeBytes_advance _ (bcdDigits_length (s.getV x))⟩

end

/-! Display: the cells DRW flips are those its sprite covers, and CLS, DRW and Reset are the only writers of the framebuffer
(43_display.md R140 to R143, 70_reset_and_hazards.md R200). -/

namespace Sys2Proof.Machine

variable {s t : State}

/-! Frames -/

/-- Setting the framebuffer on top of a change of registers adds the pixels, and nothing else, to what may change. -/
theorem frame_setFb_advance {p : Reg → Prop} (h : frame { regs := p } s t.advance) (fb : FrameBuffer) :
    frame { pixels := True, regs := p } s (t.setFb fb).advance := by
  obtain ⟨hregs, hbytes, hi, hstack, hdt, hst, -, hrest⟩ := h
  exact ⟨hregs, hbytes, hi, hstack, hdt, hst, fun hp => absurd trivial hp, hrest⟩

/-! The cells of a sprite -/

theorem targetPixel_clip_eq_some {cx cy : Nat} {px : Fin fbW} {py : Fin fbH} :
    targetPixel .clip cx cy = some (px, py) ↔ px.val = cx ∧ py.val = cy := by
  constructor
  · intro h
    simp only [targetPixel] at h
    split at h
    · cases h
      exact ⟨rfl, rfl⟩
    · cases h
  · rintro ⟨rfl, rfl⟩
    exact dif_pos ⟨px.isLt, py.isLt⟩

theorem targetPixel_wrap_eq_some {cx cy : Nat} {px : Fin fbW} {py : Fin fbH} :
    targetPixel .wrap cx cy = some (px, py) ↔ px.val = cx % 64 ∧ py.val = cy % 32 := by
  simp only [targetPixel, Option.some.injEq, Prod.mk.injEq, Fin.ext_iff, eq_comm]

/-- The cells DRW flips are those the sprite covers, under both edges (43_display.md R141, R142). -/
theorem mem_drawnCells_iff {x y : Reg} {n : Nibble} {px : Fin fbW} {py : Fin fbH} :
    (px, py) ∈ drawnCells x y n s ↔ spriteCovers s x y n px py := by
  simp only [drawnCells, mem_spriteCells, spriteCovers, State.readBytes_length, State.readBytes_get, Nat.zero_add]
  refine exists_congr fun r => exists_congr fun c => ?_
  rw [exists_prop]
  refine and_congr_right fun _ => and_congr_right fun _ => and_congr_right fun _ => ?_
  cases s.cfg.drawEdge with
  | clip => exact targetPixel_clip_eq_some
  | wrap => exact targetPixel_wrap_eq_some

/-- The cells depend on the edge option, on Vx, Vy and I, and on the bytes of memory. -/
theorem drawnCells_congr {x y : Reg} (n : Nibble) (hcfg : t.cfg = s.cfg) (hmem : t.mem = s.mem) (hi : t.i = s.i)
    (hx : t.getV x = s.getV x) (hy : t.getV y = s.getV y) : drawnCells x y n t = drawnCells x y n s := by
  have hbyte : t.readByte = s.readByte := funext (State.readByte_congr hmem hcfg)
  simp only [drawnCells, State.readBytes, hcfg, hi, hx, hy, hbyte]

/-- DRW collides iff the sprite covers a pixel that is on. -/
theorem drawSprite_hit_iff (x y : Reg) (n : Nibble) (s : State) :
    (drawSprite x y n s).2 = true ↔ ∃ px py, s.fb.pixel px py = true ∧ spriteCovers s x y n px py := by
  simp only [(drawSprite_spec s x y n).2, List.any_eq_true, Prod.exists, mem_drawnCells_iff, and_comm]

/-! Drawing -/

/-- The state after a DRW that is not suppressed (43_display.md R141); the framebuffer is set outermost, where
`frame_setFb_advance` expects it. -/
def State.drawn (s : State) (x y : Reg) (n : Nibble) : State :=
  ((s.setV vF (collision (drawSprite x y n s).2)).setFb (drawSprite x y n s).1).advance

theorem exec_drwVxVyN_of_inside (x y : Reg) {n : Nibble} (h : n.toNat ≥ 1 → s.i.toNat + n.toNat - 1 ≤ 0xFFF) :
    exec (.drwVxVyN x y n) s = .next (s.drawn x y n) := by
  have hfits : ¬ spanLeaves s.i.toNat n.toNat = true := by
    rw [spanLeaves_iff]
    omega
  exact if_neg hfits

theorem State.drawn_pixel (s : State) (x y : Reg) (n : Nibble) (px : Fin fbW) (py : Fin fbH) :
    (s.drawn x y n).fb.pixel px py = (s.fb.pixel px py ^^ decide ((px, py) ∈ drawnCells x y n s)) :=
  (drawSprite_spec s x y n).1 px py

theorem State.drawn_getV_vF (s : State) (x y : Reg) (n : Nibble) :
    (s.drawn x y n).getV vF = collision (drawSprite x y n s).2 :=
  State.getV_setV_same s vF _

/-- A draw moves no sprite: the second of two draws flips the cells of the first. -/
theorem State.drawnCells_drawn {x y : Reg} (n : Nibble) (hx : x ≠ vF) (hy : y ≠ vF) :
    drawnCells x y n (s.drawn x y n) = drawnCells x y n s :=
  drawnCells_congr n rfl rfl rfl (State.getV_setV_of_ne _ hx.symm) (State.getV_setV_of_ne _ hy.symm)

/-- Flipping the same cells twice restores every pixel. -/
theorem State.drawn_drawn_fb {x y : Reg} (n : Nibble) (hx : x ≠ vF) (hy : y ≠ vF) :
    ((s.drawn x y n).drawn x y n).fb = s.fb := by
  refine FrameBuffer.ext_pixel fun px py => ?_
  rw [State.drawn_pixel, State.drawn_pixel, State.drawnCells_drawn n hx hy, Bool.xor_assoc, Bool.xor_self, Bool.xor_false]

/-! Who writes the framebuffer -/

/-- Every instruction but CLS and DRW leaves the framebuffer as it is. -/
theorem exec_fb_cases {i : Instr} (h : exec i s = .next t) :
    t.fb = s.fb ∨ i = .cls ∨ ∃ x y n, i = .drwVxVyN x y n := by
  cases i with
  | cls => exact .inr (.inl rfl)
  | drwVxVyN x y n => exact .inr (.inr ⟨x, y, n, rfl⟩)
  | ldFVx | ldBVx | ldMemVx | ldVxMem => obtain rfl | rfl := suppress_or_next h <;> exact .inl rfl
  | skpVx | sknpVx =>
    obtain rfl | rfl := suppress_or_next h
    · exact .inl rfl
    · exact .inl (State.skipIf_fb s _)
  | seVxNN | sneVxNN | seVxVy | sneVxVy => cases h; exact .inl (State.skipIf_fb s _)
  | ret => obtain ⟨_, rfl⟩ | ⟨_, rfl⟩ := execRet_cases h <;> exact .inl rfl
  | call => obtain ⟨_, rfl⟩ | ⟨_, rfl⟩ := execCall_cases h <;> exact .inl rfl
  | jp | ldVxNN | addVxNN | ldVxVy | orVxVy | andVxVy | xorVxVy | addVxVy | subVxVy | shrVxVy | subnVxVy | shlVxVy
  | ldINNN | jpV0NNN | rndVxNN | ldVxDT | ldVxK | ldDTVx | ldSTVx | addIVx => cases h; exact .inl rfl

/-- The cycle runs CLS or DRW (43_display.md R143). -/
def State.runsDisplay (s : State) : Prop :=
  s.runs ∧ (s.fetched = .instr .cls ∨ ∃ x y n, s.fetched = .instr (.drwVxVyN x y n))

theorem cycle_fb_cases (h : cycle s = .next t) : t.fb = s.fb ∨ s.runsDisplay := by
  obtain ⟨_, _, rfl⟩ | ⟨_, _, _, rfl⟩ | ⟨i, hr, hi, hexec⟩ | ⟨w, _, _, rfl⟩ := cycle_cases h
  case inr.inr.inl =>
    obtain hfb | rfl | ⟨x, y, n, rfl⟩ := exec_fb_cases hexec
    · exact .inl hfb
    · exact .inr ⟨hr, .inl hi⟩
    · exact .inr ⟨hr, .inr ⟨x, y, n, hi⟩⟩
  all_goals exact .inl rfl

theorem State.keySet_fb (s : State) (k : Nat) (pressed : Bool) : (s.keySet k pressed).fb = s.fb := by
  obtain ⟨_, h⟩ | ⟨_, x, _, _, _, h⟩ | ⟨_, _, h⟩ := State.keySet_cases s k pressed <;> rw [h] <;> rfl

/-- A step leaves the framebuffer as it is, or is a Reset or a Step that runs CLS or DRW. -/
theorem step_fb_cases (h : step s = .next t) :
    t.fb = s.fb ∨ s.pending.head? = some .reset ∨ (s.stepsNext ∧ s.runsDisplay) := by
  obtain ⟨hp, hcycle⟩ | ⟨es, hp, hcycle⟩ | ⟨es, f, _, _, rfl⟩ | ⟨es, hp, rfl⟩ | ⟨es, bytes, _, rfl⟩ | ⟨es, _, rfl⟩ |
    ⟨es, k, pressed, _, rfl⟩ | ⟨es, _, rfl⟩ := step_cases h
  · exact (cycle_fb_cases hcycle).imp_right fun hd => .inr ⟨.inl hp, hd⟩
  · exact (cycle_fb_cases hcycle).imp_right fun hd => .inr ⟨.inr (by rw [hp]; rfl), hd⟩
  · exact .inl rfl
  · exact .inr (.inl (by rw [hp]; rfl))
  · rw [State.load_eq_with_mem]; exact .inl rfl
  · exact .inl rfl
  · exact .inl (State.keySet_fb _ k pressed)
  · exact .inl rfl

/-- A Reset next on the agenda is the step. -/
theorem step_of_reset (h : s.pending.head? = some .reset) : step s = .next (s.setPending s.agendaAfter).resetEvent := by
  obtain ⟨es, hp⟩ := List.head?_eq_some_iff.mp h
  simp only [step, nextEvent, State.agendaAfter, hp]
  rfl

end Sys2Proof.Machine

section

open Sys2Proof Sys2Proof.Machine

/-- Settles O36: the cells drawn are those the sprite covers, each flipped once, and VF is the collision. -/
theorem drawXorsTheSprite : Obligations.DrawXorsTheSprite := by
  intro x y n s h
  refine ⟨s.drawn x y n, exec_drwVxVyN_of_inside x y h, fun px py => ⟨fun hc => ?_, fun hc => ?_⟩, fun hhit => ?_,
    fun hhit => ?_, rfl, frame_setFb_advance (frame_setV_advance vF _) _⟩
  · rw [State.drawn_pixel, decide_eq_true (mem_drawnCells_iff.mpr hc), Bool.xor_true]
  · rw [State.drawn_pixel, decide_eq_false (mt mem_drawnCells_iff.mp hc), Bool.xor_false]
  · rw [State.drawn_getV_vF, (drawSprite_hit_iff x y n s).mpr hhit]
    rfl
  · rw [State.drawn_getV_vF, Bool.eq_false_iff.mpr (mt (drawSprite_hit_iff x y n s).mp hhit)]
    rfl

/-- Settles O37: the first draw writes only pixels, VF and PC, so the second flips the same cells back. -/
theorem drawTwiceRestoresTheScreen : Obligations.DrawTwiceRestoresTheScreen := fun x y n s hx hy h =>
  ⟨s.drawn x y n, (s.drawn x y n).drawn x y n, exec_drwVxVyN_of_inside x y h, exec_drwVxVyN_of_inside x y h,
    State.drawn_drawn_fb n hx hy⟩

/-- Settles O54, by the cases of what a step writes to the framebuffer; a Reset gives it its reset value. -/
theorem onlyClearAndDrawChangePixels : Obligations.OnlyClearAndDrawChangePixels := by
  intro s t h
  refine ⟨fun hchanged => ?_, fun hreset px py => ?_⟩
  · obtain hreset | ⟨hsteps, hruns, hfetched⟩ := (step_fb_cases h).resolve_left hchanged
    · exact .inl hreset
    · exact .inr ⟨hruns, hsteps, hfetched⟩
  · cases (step_of_reset hreset).symm.trans h
    exact clearFb_pixel px py

/-- Settles O35: CLS writes the framebuffer alone. -/
theorem clearTurnsEveryPixelOff : Obligations.ClearTurnsEveryPixelOff := fun s =>
  ⟨_, rfl, clearFb_pixel, rfl, frame_setFb_advance (frame_setPc _ s _) clearFb⟩

end

/-! Random, keypad and timers: what each instruction does and its frame, and who writes a timer (44_keypad_timers_random.md R150 to
R158). -/

namespace Sys2Proof.Machine

variable {s t : State}

/-! Frames -/

/-- Using up a random byte on top of a change of registers adds the draw counter, and nothing else, to what may change. -/
theorem frame_useRandom_advance {p : Reg → Prop} (h : frame { regs := p } s t.advance) :
    frame { regs := p, random := True } s t.useRandom.advance := by
  obtain ⟨hregs, hbytes, hi, hstack, hdt, hst, hfb, hstatus, hfault, -, hhost⟩ := h
  exact ⟨hregs, hbytes, hi, hstack, hdt, hst, hfb, hstatus, hfault, fun hr => absurd trivial hr, hhost⟩

theorem frame_setDt_advance (s : State) (u : Byte) : frame { delay := True } s (s.setDt u).advance :=
  ⟨fun _ _ => rfl, fun _ _ => rfl, fun _ => rfl, fun _ => ⟨rfl, rfl⟩, fun h => absurd trivial h, fun _ => rfl, fun _ => rfl,
    fun _ => rfl, fun _ => rfl, fun _ => rfl, rfl, rfl, rfl⟩

theorem frame_setSt_advance (s : State) (u : Byte) : frame { sound := True } s (s.setSt u).advance :=
  ⟨fun _ _ => rfl, fun _ _ => rfl, fun _ => rfl, fun _ => ⟨rfl, rfl⟩, fun _ => rfl, fun h => absurd trivial h, fun _ => rfl,
    fun _ => rfl, fun _ => rfl, fun _ => rfl, rfl, rfl, rfl⟩

theorem frame_setStatus_advance (s : State) (q : Status) : frame { status := True } s (s.setStatus q).advance :=
  ⟨fun _ _ => rfl, fun _ _ => rfl, fun _ => rfl, fun _ => ⟨rfl, rfl⟩, fun _ => rfl, fun _ => rfl, fun _ => rfl,
    fun h => absurd trivial h, fun _ => rfl, fun _ => rfl, rfl, rfl, rfl⟩

/-! Who writes a timer -/

/-- The instruction sets one timer to Vx and keeps the other (44_keypad_timers_random.md R156, R157). -/
def setsTimer (s t : State) (i : Instr) : Prop :=
  (∃ x, i = .ldDTVx x ∧ t.dt = s.getV x ∧ t.st = s.st) ∨ (∃ x, i = .ldSTVx x ∧ t.st = s.getV x ∧ t.dt = s.dt)

/-- Every instruction but LD DT,Vx and LD ST,Vx leaves both timers as they are. -/
theorem exec_timer_cases {i : Instr} (h : exec i s = .next t) : (t.dt = s.dt ∧ t.st = s.st) ∨ setsTimer s t i := by
  cases i with
  | ldDTVx x => cases h; exact .inr (.inl ⟨x, rfl, rfl, rfl⟩)
  | ldSTVx x => cases h; exact .inr (.inr ⟨x, rfl, rfl, rfl⟩)
  | ldFVx | ldBVx | ldMemVx | ldVxMem | drwVxVyN => obtain rfl | rfl := suppress_or_next h <;> exact .inl ⟨rfl, rfl⟩
  | skpVx | sknpVx =>
    obtain rfl | rfl := suppress_or_next h
    · exact .inl ⟨rfl, rfl⟩
    · exact .inl ⟨State.skipIf_dt s _, State.skipIf_st s _⟩
  | seVxNN | sneVxNN | seVxVy | sneVxVy => cases h; exact .inl ⟨State.skipIf_dt s _, State.skipIf_st s _⟩
  | ret => obtain ⟨_, rfl⟩ | ⟨_, rfl⟩ := execRet_cases h <;> exact .inl ⟨rfl, rfl⟩
  | call => obtain ⟨_, rfl⟩ | ⟨_, rfl⟩ := execCall_cases h <;> exact .inl ⟨rfl, rfl⟩
  | cls | jp | ldVxNN | addVxNN | ldVxVy | orVxVy | andVxVy | xorVxVy | addVxVy | subVxVy | shrVxVy | subnVxVy | shlVxVy
  | ldINNN | jpV0NNN | rndVxNN | ldVxDT | ldVxK | addIVx => cases h; exact .inl ⟨rfl, rfl⟩

theorem cycle_timer_cases (h : cycle s = .next t) :
    (t.dt = s.dt ∧ t.st = s.st) ∨ ∃ i, s.runs ∧ s.fetched = .instr i ∧ setsTimer s t i := by
  obtain ⟨_, _, rfl⟩ | ⟨_, _, _, rfl⟩ | ⟨i, hr, hi, hexec⟩ | ⟨w, _, _, rfl⟩ := cycle_cases h
  case inr.inr.inl => exact (exec_timer_cases hexec).imp_right fun hset => ⟨i, hr, hi, hset⟩
  all_goals exact .inl ⟨rfl, rfl⟩

theorem State.keySet_timers (s : State) (k : Nat) (pressed : Bool) :
    (s.keySet k pressed).dt = s.dt ∧ (s.keySet k pressed).st = s.st := by
  obtain ⟨_, h⟩ | ⟨_, x, _, _, _, h⟩ | ⟨_, _, h⟩ := State.keySet_cases s k pressed <;> rw [h] <;> exact ⟨rfl, rfl⟩

/-- A step leaves both timers as they are, counts both down at a Tick, is a Reset, or sets one of them. -/
theorem step_timer_cases (h : step s = .next t) :
    (t.dt = s.dt ∧ t.st = s.st) ∨
    (s.pending.head? = some .tick ∧ t.dt = countDown s.dt ∧ t.st = countDown s.st) ∨
    s.pending.head? = some .reset ∨
    (∃ i, s.runs ∧ s.stepsNext ∧ s.fetched = .instr i ∧ setsTimer s t i) := by
  obtain ⟨hp, hcycle⟩ | ⟨es, hp, hcycle⟩ | ⟨es, f, _, _, rfl⟩ | ⟨es, hp, rfl⟩ | ⟨es, bytes, _, rfl⟩ | ⟨es, hp, rfl⟩ |
    ⟨es, k, pressed, _, rfl⟩ | ⟨es, _, rfl⟩ := step_cases h
  · exact (cycle_timer_cases hcycle).imp_right fun ⟨i, hr, hi, hset⟩ => .inr (.inr ⟨i, hr, .inl hp, hi, hset⟩)
  · exact (cycle_timer_cases hcycle).imp_right fun ⟨i, hr, hi, hset⟩ =>
      .inr (.inr ⟨i, hr, .inr (by rw [hp]; rfl), hi, hset⟩)
  · exact .inl ⟨rfl, rfl⟩
  · exact .inr (.inr (.inl (by rw [hp]; rfl)))
  · rw [State.load_eq_with_mem]; exact .inl ⟨rfl, rfl⟩
  · exact .inr (.inl ⟨by rw [hp]; rfl, rfl, rfl⟩)
  · exact .inl (State.keySet_timers _ k pressed)
  · exact .inl ⟨rfl, rfl⟩

/-- Counting down stops at zero (10_state.md R22). -/
theorem countDown_toNat (u : Byte) : (countDown u).toNat = u.toNat - 1 :=
  (BitVec.toNat_ofNat _ _).trans (Nat.mod_eq_of_lt (Nat.lt_of_le_of_lt (Nat.sub_le _ 1) u.isLt))

end Sys2Proof.Machine

section

open Sys2Proof Sys2Proof.Machine

/-- Settles O53, by the cases of what a step writes to the timers. -/
theorem onlyTickCountsATimerDown : Obligations.OnlyTickCountsATimerDown := by
  intro s t h
  obtain ⟨hdt, hst⟩ | ⟨htick, hdt, hst⟩ | hreset |
    ⟨i, hr, hsteps, hi, ⟨x, rfl, hset, hkeep⟩ | ⟨x, rfl, hset, hkeep⟩⟩ := step_timer_cases h
  · exact ⟨.inl hdt, .inl hst⟩
  · exact ⟨.inr (.inl ⟨htick, hdt ▸ countDown_toNat s.dt⟩), .inr (.inl ⟨htick, hst ▸ countDown_toNat s.st⟩)⟩
  · exact ⟨.inr (.inr (.inl hreset)), .inr (.inr (.inl hreset))⟩
  · exact ⟨.inr (.inr (.inr ⟨x, hr, hsteps, hi, hset⟩)), .inl hkeep⟩
  · exact ⟨.inl hkeep, .inr (.inr (.inr ⟨x, hr, hsteps, hi, hset⟩))⟩

/-- Settles O38: a bit of the conjunction is 0 where NN has a 0, whatever the free byte is. -/
theorem randomIsMasked : Obligations.RandomIsMasked := by
  intro x nn s
  have hx : (s.setV x (Config.rnd s.draw &&& nn)).useRandom.advance.getV x = Config.rnd s.draw &&& nn :=
    State.getV_setV_same s x _
  refine ⟨_, rfl, hx, fun k hk => ?_, rfl, rfl, frame_useRandom_advance (frame_setV_advance x _)⟩
  rw [hx, BitVec.getLsbD_and, hk, Bool.and_false]

/-- Settles O39: SKP and SKNP are one skip, taken if the flag the latch holds is set, or unless it is. -/
theorem keySkipsReadTheLatch : Obligations.KeySkipsReadTheLatch := by
  intro x s pressed h
  rw [exec_skpVx_eq, exec_sknpVx_eq, h]
  simp only [Option.some.injEq, ← Bool.not_eq_true]
  exact ⟨skip_if s (pressed = true), skip_unless s (pressed = true)⟩

/-- Settles O40: the first is a load of Vx, the others write one timer. -/
theorem timerTransfersMoveTheByte : Obligations.TimerTransfersMoveTheByte := fun x s =>
  ⟨load_spec s x s.dt, ⟨_, rfl, rfl, rfl, frame_setDt_advance s _⟩, ⟨_, rfl, rfl, rfl, frame_setSt_advance s _⟩⟩

/-- Settles O41: STATUS and PC are all that LD Vx,K writes. -/
theorem waitForKeySuspends : Obligations.WaitForKeySuspends := fun _ s =>
  ⟨_, rfl, rfl, rfl, frame_setStatus_advance s _⟩

end

/-! The fatal faults and the diagnostics of a Step, and what the snapshot shows of a fault (60_exceptions.md R170 to R176, R189). -/

namespace Sys2Proof.Machine

variable {s t : State} {f : Fault} {i : Instr}

theorem exec_of_raises (h : raises s i f) : exec i s = .next (s.latch f) := by
  obtain ⟨nnn, rfl, hsp, rfl⟩ | ⟨rfl, hsp, rfl⟩ := h
  · exact exec_call_of_full nnn hsp
  · exact exec_ret_of_empty hsp

/-- CALL and RET alone raise a fault: every other instruction leaves the latch as it is. -/
theorem raises_of_exec (hf : s.fault = none) (h : exec i s = .next t) (hlatched : t.fault = some f) : raises s i f := by
  have hchanged : t.fault ≠ s.fault := by rw [hlatched, hf]; exact nofun
  by_cases hret : i = .ret
  · subst hret
    obtain ⟨_, rfl⟩ | ⟨hsp, rfl⟩ := execRet_cases h
    · exact absurd rfl hchanged
    · cases hlatched; exact .inr ⟨rfl, hsp, rfl⟩
  by_cases hcall : ∃ nnn, i = .call nnn
  · obtain ⟨nnn, rfl⟩ := hcall
    obtain ⟨_, rfl⟩ | ⟨hsp, rfl⟩ := execCall_cases h
    · exact absurd rfl hchanged
    · cases hlatched; exact .inl ⟨nnn, rfl, Nat.le_antisymm (Nat.le_of_lt_succ s.sp.isLt) hsp, rfl⟩
  · obtain ⟨_, _, hkeeps, _⟩ := exec_movesOnlyPc hret (not_exists.mp hcall) h
    exact absurd hkeeps hchanged

/-- The cycle fetches outside memory, or runs an instruction that raises `f` (60_exceptions.md R171, R173). -/
def State.faultsWith (s : State) (f : Fault) : Prop :=
  (s.status = .running ∧ s.pc.toNat > 0x0FFE ∧ f = .pcOutOfRange) ∨ (s.runs ∧ ∃ i, s.fetched = .instr i ∧ raises s i f)

/-- A fault is precise: its cycle latches it and changes nothing else (60_exceptions.md R170). -/
theorem cycle_of_faultsWith (hf : s.fault = none) (h : s.faultsWith f) : cycle s = .next (s.latch f) := by
  obtain ⟨hq, hpc, rfl⟩ | ⟨hr, i, hi, hraises⟩ := h
  · exact cycle_of_pcLeaves hf hq ((State.pcLeaves_iff s).mpr hpc)
  · exact (cycle_of_instr hr hi).trans (exec_of_raises hraises)

theorem faultsWith_of_cycle (hf : s.fault = none) (h : cycle s = .next t) (hlatched : t.fault = some f) :
    s.faultsWith f := by
  have hnone : s.fault ≠ some f := by rw [hf]; exact nofun
  obtain ⟨_, _, rfl⟩ | ⟨_, hq, hp, rfl⟩ | ⟨i, hr, hi, hexec⟩ | ⟨w, _, _, rfl⟩ := cycle_cases h
  · exact absurd hlatched hnone
  · cases hlatched; exact .inl ⟨hq, (State.pcLeaves_iff s).mp hp, rfl⟩
  · exact .inr ⟨hr, i, hi, raises_of_exec hf hexec hlatched⟩
  · exact absurd hlatched hnone

/-- The result of a Step whose cycle goes on is what that cycle left in the latch. -/
theorem stepResult_eq_faulted_iff (h : cycle s = .next t) : stepResult s = .faulted f ↔ t.fault = some f := by
  simp only [stepResult, h]
  cases t.fault <;> simp

/-- PcOutOfRange alone is raised without a fetched word. -/
theorem State.faultsWith.pc_le_iff (h : s.faultsWith f) : s.pc.toNat ≤ 0x0FFE ↔ f ≠ .pcOutOfRange := by
  obtain ⟨_, hpc, rfl⟩ | ⟨hr, i, _, ⟨_, _, _, rfl⟩ | ⟨_, _, rfl⟩⟩ := h
  · exact iff_of_false (Nat.not_le_of_gt hpc) (not_not_intro rfl)
  all_goals exact iff_of_true hr.pc_le nofun

theorem diagnostic_of_instr (hr : s.runs) (hi : s.fetched = .instr i) :
    diagnostic s = if suppressed s i then .accessSuppressed s.fetchWord s.pc else .noDiag := by
  obtain ⟨hf, hq, hp⟩ := (State.runs_iff s).mp hr
  simp [diagnostic, hf, hq, hp, hi]

end Sys2Proof.Machine

section

open Sys2Proof Sys2Proof.Machine

/-- Settles O11: a Step of a core without a fault reports what its cycle latches, and only a fetch outside memory, CALL and RET
latch. -/
theorem faultsAreExactlyTheListedOnes : Obligations.FaultsAreExactlyTheListedOnes := by
  intro s f hf
  constructor
  · intro hresult
    obtain ⟨t, ht⟩ := cycle_exists_next hf
    exact faultsWith_of_cycle hf ht ((stepResult_eq_faulted_iff ht).mp hresult)
  · intro hfaults
    exact (stepResult_eq_faulted_iff (cycle_of_faultsWith hf hfaults)).mpr rfl

/-- Settles O60: the faulting cycle changes the latch alone, so PC and memory still show what was fetched. -/
theorem snapshotShowsTheFaultingWord : Obligations.SnapshotShowsTheFaultingWord := by
  intro s t f hf h hlatched
  have hfaults := faultsWith_of_cycle hf h hlatched
  cases h.symm.trans (cycle_of_faultsWith hf hfaults)
  refine ⟨rfl, fun hne => ?_, fun heq => ?_⟩
  · exact (State.debugView_wordAtPc _).trans (if_pos (hfaults.pc_le_iff.mpr hne))
  · exact (State.debugView_wordAtPc _).trans (if_neg fun hpc => hfaults.pc_le_iff.mp hpc heq)

/-- Settles O13: the diagnostic asks `suppressed`, which is the condition of R46. -/
theorem suppressionIsReported : Obligations.SuppressionIsReported := by
  intro s i hr hi
  rw [diagnostic_of_instr hr hi, ← suppressed_iff_leavesRange]
  exact ⟨fun h => if_pos h, fun h => if_neg h⟩

end

/-! KeySet, Tick and Load, and the outputs of the snapshots (60_exceptions.md R180 to R189). -/

namespace Sys2Proof.Machine

variable {s : State} {k : Nat}

theorem State.keySet_of_ge (s : State) (pressed : Bool) (h : nkeys ≤ k) : s.keySet k pressed = s :=
  dif_neg (Nat.not_lt.mpr h)

theorem State.keySet_keys (s : State) (pressed : Bool) (h : k < nkeys) :
    (s.keySet k pressed).keys = s.keys.set k pressed h := by
  obtain ⟨hle, _⟩ | ⟨_, x, _, _, _, heq⟩ | ⟨_, _, heq⟩ := State.keySet_cases s k pressed
  · exact absurd h (Nat.not_lt.mpr hle)
  all_goals rw [heq]; rfl

theorem State.keySet_keys_other (s : State) (pressed : Bool) {j : Nat} (h : j ≠ k) :
    (s.keySet k pressed).keys[j]? = s.keys[j]? := by
  obtain ⟨_, heq⟩ | ⟨hk, x, _, _, _, heq⟩ | ⟨hk, _, heq⟩ := State.keySet_cases s k pressed <;> rw [heq]
  all_goals exact Vector.getElem?_set_ne hk h.symm

/-- A KeySet writes KEYS, V and STATUS alone. -/
theorem State.keySet_eq_with (s : State) (k : Nat) (pressed : Bool) :
    s.keySet k pressed =
      { s with keys := (s.keySet k pressed).keys, v := (s.keySet k pressed).v, status := (s.keySet k pressed).status } := by
  obtain ⟨_, heq⟩ | ⟨_, x, _, _, _, heq⟩ | ⟨_, _, heq⟩ := State.keySet_cases s k pressed <;> rw [heq] <;> rfl

/-- A flag that rises while the core waits gives its key to the waiting register and ends the wait (D13; log 18). -/
theorem State.keySet_of_rise {x : Reg} (h : k < nkeys) (hrise : s.keys[k] = false) (hwait : s.status = .waitingForKey x) :
    s.keySet k true = ((s.setKeys (s.keys.set k true h)).setV x (BitVec.ofNat 8 k)).setStatus .running := by
  simp [State.keySet, State.key, h, hrise, hwait]

/-- Without a flag that rises while the core waits, only the flag is written. -/
theorem State.keySet_of_no_wake {pressed : Bool} (h : k < nkeys)
    (hno : pressed = false ∨ s.keys[k] = true ∨ s.status = .running) :
    s.keySet k pressed = s.setKeys (s.keys.set k pressed h) := by
  obtain ⟨hle, _⟩ | ⟨_, x, hpressed, hrise, hwait, _⟩ | ⟨_, _, heq⟩ := State.keySet_cases s k pressed
  · exact absurd h (Nat.not_lt.mpr hle)
  · simp [hpressed, hrise, hwait] at hno
  · exact heq

/-- A run of Ticks takes one off the agenda and counts the timers down. -/
theorem run_ticks_succ (n : Nat) (s : State) :
    Host.Core.run core (n + 1) { s with pending := List.replicate (n + 1) Event.tick } =
      Host.Core.run core n { s.tick with pending := List.replicate n Event.tick } := rfl

@[simp] theorem State.tick_dt_toNat (s : State) : s.tick.dt.toNat = s.dt.toNat - 1 := countDown_toNat s.dt

@[simp] theorem State.tick_st_toNat (s : State) : s.tick.st.toNat = s.st.toNat - 1 := countDown_toNat s.st

theorem State.load_of_fits {bytes : List Byte} (h : bytes.length ≤ progMax) : s.load bytes = s.writeBytes progBase bytes :=
  if_neg (Nat.not_lt.mpr h)

theorem State.load_of_too_long {bytes : List Byte} (h : bytes.length > progMax) : s.load bytes = s := if_pos h

theorem State.soundActive_iff (s : State) : s.soundActive = true ↔ s.st.toNat ≠ 0 := by
  rw [State.soundActive, decide_eq_true_iff, ne_eq, ← BitVec.toNat_inj]
  rfl

end Sys2Proof.Machine

section

open Sys2Proof Sys2Proof.Machine

/-- Settles O42: the two ways a KeySet with an index of the latch goes are a rise while waiting, and every other case. -/
theorem keySetLatchesAndWakes : Obligations.KeySetLatchesAndWakes := by
  intro s k pressed
  refine ⟨fun hk => congrArg Host.Outcome.next (s.keySet_of_ge pressed hk), fun hle => ?_⟩
  have hk : k < nkeys := Nat.lt_succ_of_le hle
  refine ⟨s.keySet k pressed, rfl, ?_, fun j hj => s.keySet_keys_other pressed hj, s.keySet_eq_with k pressed, ?_, ?_⟩
  · rw [s.keySet_keys pressed hk, Vector.getElem?_set_self]
  · rintro x rfl hrise hwait
    rw [Vector.getElem?_eq_getElem hk, Option.some.injEq] at hrise
    rw [State.keySet_of_rise hk hrise hwait]
    refine ⟨rfl, ?_, fun r hr => State.getV_setV_of_ne _ (Ne.symm hr)⟩
    exact (congrArg BitVec.toNat (State.getV_setV_same _ x _)).trans (Nat.mod_eq_of_lt (by omega))
  · intro hno
    rw [Vector.getElem?_eq_getElem hk, Option.some.injEq] at hno
    rw [State.keySet_of_no_wake hk hno]
    exact ⟨rfl, rfl⟩

/-- Settles O43: a byte one lower, or 0, never wraps. -/
theorem tickCountsBothTimersDown : Obligations.TickCountsBothTimersDown := fun s =>
  ⟨s.tick, rfl, s.tick_dt_toNat, s.tick_st_toNat, rfl⟩

/-- Settles O44, by induction on the number of Ticks: the first one leaves a core with `n` Ticks to come. -/
theorem ticksRunTheTimersDown : Obligations.TicksRunTheTimersDown := by
  intro n
  induction n with
  | zero => exact fun s => ⟨{ s with pending := [] }, rfl, rfl, rfl, rfl⟩
  | succ n ih =>
    intro s
    obtain ⟨t, hrun, hdt, hst, heq⟩ := ih s.tick
    refine ⟨t, (run_ticks_succ n s).trans hrun, ?_, ?_, heq⟩
    · rw [hdt, State.tick_dt_toNat]; omega
    · rw [hst, State.tick_st_toNat]; omega

/-- Settles O45: an image that fits in the program region is inside memory, so each address of its span holds its byte. -/
theorem loadCopiesTheImage : Obligations.LoadCopiesTheImage := by
  intro s bytes
  refine ⟨fun hfits => ⟨congrArg Output.loaded (if_neg (Nat.not_lt.mpr hfits)), ?_⟩, fun hlong =>
    ⟨congrArg Output.loaded (if_pos hlong), congrArg Host.Outcome.next (State.load_of_too_long hlong)⟩⟩
  refine ⟨s.writeBytes 0x200 bytes, congrArg Host.Outcome.next (State.load_of_fits hfits), fun k hk => ?_, fun a ha => ?_, rfl⟩
  · rw [s.readByte_writeBytes_inside 0x200 k bytes hk (Nat.add_le_add_left hfits 0x200), List.getElem?_eq_getElem hk]
  · exact s.readByte_writeBytes_outside 0x200 a bytes (by unfold inSpan at ha; omega)

/-- Settles O46: the snapshots are the fields they show, and a byte is 0 exactly if its value is. -/
theorem snapshotsAndSoundAreReads : Obligations.SnapshotsAndSoundAreReads := fun s =>
  ⟨rfl, rfl, rfl, rfl, s.soundActive_iff⟩

end

/-! The Reset event (70_reset_and_hazards.md R200, R202). -/

namespace Sys2Proof.Machine

/-- After a Reset event every byte has its reset content, under the configuration the state had. -/
theorem State.resetEvent_readByte (s : State) (a : Nat) : s.resetEvent.readByte a = Memory.blank s.cfg.font a :=
  State.readByte_of_mem_nil (s := s.resetEvent) rfl a

end Sys2Proof.Machine

section

open Sys2Proof Sys2Proof.Machine

/-- Settles O48: the event's state has an empty memory list, so it reads as the reset content with the font it was given. -/
theorem resetEventRecreatesTheState : Obligations.ResetEventRecreatesTheState := by
  intro s
  refine ⟨s.resetEvent, rfl, fun j hj => ?_, fun a ha => ?_, rfl⟩
  · rw [s.resetEvent_readByte, Memory.blank_inside _ j hj]
  · rw [s.resetEvent_readByte, Memory.blank_outside _ a ha]

end
